-- ==== Sys2Proof/Word.lean ====
section
/-!
DEFINITION. The words the block handles, each an unsigned bit vector whose bit 0 is the least significant
(spec/00_scope.md rule R7: no value of the block is signed).
-/

namespace Sys2Proof

/-- One byte of the store, an `a` operand of REQ32, or a CMD8 command byte. -/
abbrev Byte := BitVec 8

/-- A timer, a reload register, a CRC, a `v` operand or a response value. -/
abbrev Half := BitVec 16

/-- A request word, a response word, or one register of a channel record. -/
abbrev Word := BitVec 32

/-- A channel number on the 4-bit path: base, delta, active channel, CMD8 code or operand. -/
abbrev Nibble := BitVec 4

end Sys2Proof
end

