-- ==== Sys2Proof/Syntax.lean ====
section
/-!
DEFINITION. What the block can be asked to do: the 29 operations of REQ32 and the 9 command rows of CMD8
(spec/opcode_table.json, spec/30_encoding.md rules R95 and R96), their two encoded forms, and the events that
have no encoding (rule R99): the tick, the reset and the environment's actions.
-/

namespace Sys2Proof

/-- One constructor per row of spec/opcode_table.json, in the table's order. The operand names are the
spec's: `a` and `v` for the fields of REQ32 (rule R91), `code` and `k` for the nibbles of CMD8 (rule R96). -/
inductive Instr where
  -- system (spec/43_system.md)
  | nop
  | tickMask
  | tickUnmask
  | errRd
  | errClr
  | statRd
  -- Integrity unit (spec/40_integrity.md)
  | crcClr
  | crcByte (a : Byte)
  | crcRd
  | crcChan
  | crcMsg
  | crcCmpc (v : Half)
  | crcCmpm (v : Half)
  | msgChk
  -- Timing unit (spec/41_timing.md)
  | tmrLdw (v : Half)
  | tmrLdm (v : Half)
  | tmrLde (v : Half)
  | tmrRdw
  | tmrRdm
  | tmrRde
  | tmrInit
  | tmrArmm
  | edgeTake
  -- Selection unit (spec/42_selection.md)
  | selIdx (a : Byte)
  | selAct
  | selNext
  | chLatch
  | chCmd (a : Byte)
  | chRd
  -- CMD8 command bytes, which reach the block in the `a` field of CH.CMD (rules R96 and R191)
  | channelSet (k : Nibble)
  | channelAdd (k : Nibble)
  | channelClearIfGt (k : Nibble)
  | endOfMessage (k : Nibble)
  | ioIncrement (k : Nibble)
  | ioDecrement (k : Nibble)
  | ioSet (k : Nibble)
  | unrecognized07 (code k : Nibble)
  | unrecognized8 (k : Nibble)
deriving DecidableEq, Repr

/-- An instruction as bits: a REQ32 word (rule R91) or a CMD8 byte (rule R96). -/
inductive Encoded where
  | req32 (w : Word)
  | cmd8 (b : Byte)
deriving DecidableEq, Repr

/-- Why a request word is rejected (rule R98): (a) its `op` is not assigned, (b) a field its operation does
not use is not zero. A rejected word stops nothing: the block answers it with InvalidOp. -/
inductive DecodeError where
  | reservedOpcode (op : Byte)
  | unusedField (op : Byte)
deriving DecidableEq, Repr

/-- The environment's actions (spec/20_memory.md rules R80 to R86). Programming a channel is one checked
start followed by one step per byte ("each byte write is its own step", rule R80), so that a run can stop, or
another agent can step, between two byte writes. -/
inductive EnvAction where
  /-- ENV.PROGRAM_CHANNEL(c, bytes): the checks of rule R80 and the start of the 24 byte writes. -/
  | programChannel (c : Nat) (bytes : List Byte)
  /-- The next byte write of a started ENV.PROGRAM_CHANNEL. -/
  | programStep
  /-- ENV.WRITE_CH_BYTE(c, k, b), `0 ≤ k < 24`. -/
  | writeChByte (c : Nat) (k : Fin 24) (b : Byte)
  /-- ENV.ERASE_CHANNELS (rule R81). -/
  | eraseChannels
  /-- ENV.ERASE_MESSAGE (rule R82). -/
  | eraseMessage
  /-- ENV.WRITE_MSG_BYTE(k, b), `k` "a given 16-bit index" (rule R83). -/
  | writeMsgByte (k : Half) (b : Byte)
  /-- ENV.SET_PINS(p) (rule R86). -/
  | setPins (p : Nibble)
deriving DecidableEq, Repr

/-- One step of one agent (rules R11 and R75): a request of the requester, a tick event of the tick source, a
reset, or an action of the environment. -/
inductive Event where
  | request (w : Word)
  | tick
  | reset
  | env (act : EnvAction)
deriving DecidableEq, Repr

end Sys2Proof
end

