-- ==== Sys2Proof/WellFormed.lean ====
section
/-!
DEFINITION. Which instructions stand for an encoding. The operand types already bound every operand, but for
one: the row UNRECOGNIZED_0_7 of the table covers the CMD8 codes 0x0 to 0x7 (bit 7 of the byte is 0).
-/

namespace Sys2Proof

/-- Every operand is one the instruction's encoding has room for (spec/30_encoding.md rules R91 and R96). -/
def Instr.wellFormed : Instr → Bool
  | .unrecognized07 code _ => decide (code.toNat < 8)
  | .nop | .tickMask | .tickUnmask | .errRd | .errClr | .statRd => true
  | .crcClr | .crcByte _ | .crcRd | .crcChan | .crcMsg | .crcCmpc _ | .crcCmpm _ | .msgChk => true
  | .tmrLdw _ | .tmrLdm _ | .tmrLde _ | .tmrRdw | .tmrRdm | .tmrRde | .tmrInit | .tmrArmm | .edgeTake => true
  | .selIdx _ | .selAct | .selNext | .chLatch | .chCmd _ | .chRd => true
  | .channelSet _ | .channelAdd _ | .channelClearIfGt _ | .endOfMessage _ | .ioIncrement _ => true
  | .ioDecrement _ | .ioSet _ | .unrecognized8 _ => true

end Sys2Proof
end

