-- ==== Sys2Proof/Decode.lean ====
section
/-!
DEFINITION. The decoder and the encoder of the block's two instruction formats: REQ32 request words
(spec/30_encoding.md rules R91, R95, R98) and CMD8 command bytes (rule R96).
-/

namespace Sys2Proof

/-! ### REQ32 (rule R91) -/

/-- Bits 31:24, the opcode. -/
def reqOp (w : Word) : Byte := w.extractLsb' 24 8

/-- Bits 23:16, the 8-bit operand. -/
def reqA (w : Word) : Byte := w.extractLsb' 16 8

/-- Bits 15:0, the 16-bit operand. -/
def reqV (w : Word) : Half := w.extractLsb' 0 16

/-- The request word with the three fields given. -/
def reqWord (op a : Byte) (v : Half) : Word := op ++ a ++ v

/-- An operation that uses neither operand: rule R98 (b) wants `a = 0` and `v = 0`. -/
def decodePlain (i : Instr) (w : Word) : Except DecodeError Instr :=
  if reqA w = 0 ∧ reqV w = 0 then .ok i else .error (.unusedField (reqOp w))

/-- An operation that uses `a` only: rule R98 (b) wants `v = 0`. -/
def decodeA (f : Byte → Instr) (w : Word) : Except DecodeError Instr :=
  if reqV w = 0 then .ok (f (reqA w)) else .error (.unusedField (reqOp w))

/-- An operation that uses `v` only: rule R98 (b) wants `a = 0`. -/
def decodeV (f : Half → Instr) (w : Word) : Except DecodeError Instr :=
  if reqA w = 0 then .ok (f (reqV w)) else .error (.unusedField (reqOp w))

/-- The opcode map, rule R95; every other value of `op` is reserved, rule R98 (a). -/
def decode (w : Word) : Except DecodeError Instr :=
  match (reqOp w).toNat with
  | 0x00 => decodePlain .nop w
  | 0x01 => decodePlain .tickMask w
  | 0x02 => decodePlain .tickUnmask w
  | 0x03 => decodePlain .errRd w
  | 0x04 => decodePlain .errClr w
  | 0x05 => decodePlain .statRd w
  | 0x10 => decodePlain .crcClr w
  | 0x11 => decodeA .crcByte w
  | 0x12 => decodePlain .crcRd w
  | 0x13 => decodePlain .crcChan w
  | 0x14 => decodePlain .crcMsg w
  | 0x15 => decodeV .crcCmpc w
  | 0x16 => decodeV .crcCmpm w
  | 0x17 => decodePlain .msgChk w
  | 0x20 => decodeV .tmrLdw w
  | 0x21 => decodeV .tmrLdm w
  | 0x22 => decodeV .tmrLde w
  | 0x23 => decodePlain .tmrRdw w
  | 0x24 => decodePlain .tmrRdm w
  | 0x25 => decodePlain .tmrRde w
  | 0x26 => decodePlain .tmrInit w
  | 0x27 => decodePlain .tmrArmm w
  | 0x28 => decodePlain .edgeTake w
  | 0x30 => decodeA .selIdx w
  | 0x31 => decodePlain .selAct w
  | 0x32 => decodePlain .selNext w
  | 0x33 => decodePlain .chLatch w
  | 0x34 => decodeA .chCmd w
  | 0x35 => decodePlain .chRd w
  | _ => .error (.reservedOpcode (reqOp w))

/-! ### CMD8 (rule R96) -/

/-- `byte[7:4]`, the command code. -/
def cmdCode (b : Byte) : Nibble := b.extractLsb' 4 4

/-- `byte[3:0]`, the operand. -/
def cmdOperand (b : Byte) : Nibble := b.extractLsb' 0 4

/-- The command byte with the two nibbles given. -/
def cmdByte (code k : Nibble) : Byte := code ++ k

/-- The command table of rule R96. "The decoder of a CMD8 byte is total". -/
def decodeCmd8 (b : Byte) : Instr :=
  match (cmdCode b).toNat with
  | 0xF => .endOfMessage (cmdOperand b)
  | 0xE => .ioIncrement (cmdOperand b)
  | 0xD => .ioDecrement (cmdOperand b)
  | 0xA => .ioSet (cmdOperand b)
  | 0xC => .channelSet (cmdOperand b)
  | 0xB => .channelAdd (cmdOperand b)
  | 0x9 => .channelClearIfGt (cmdOperand b)
  | 0x8 => .unrecognized8 (cmdOperand b)
  | _ => .unrecognized07 (cmdCode b) (cmdOperand b)

/-! ### Both formats -/

/-- The instruction that an encoded form stands for, or why it is rejected. -/
def decodeEncoded : Encoded → Except DecodeError Instr
  | .req32 w => decode w
  | .cmd8 b => .ok (decodeCmd8 b)

/-- How a requester presents an encoded form to the block, which takes request words only (rule R90): a REQ32
word as it is, a CMD8 byte "carried in CH.CMD", that is, in the `a` field of opcode 0x34 (rules R191 to R194). -/
def Encoded.requestWord : Encoded → Word
  | .req32 w => w
  | .cmd8 b => reqWord 0x34 b 0

/-- The words of an instruction, from the `op` column of rule R95 and the `code` column of rule R96. -/
def encode : Instr → Encoded
  | .nop => .req32 (reqWord 0x00 0 0)
  | .tickMask => .req32 (reqWord 0x01 0 0)
  | .tickUnmask => .req32 (reqWord 0x02 0 0)
  | .errRd => .req32 (reqWord 0x03 0 0)
  | .errClr => .req32 (reqWord 0x04 0 0)
  | .statRd => .req32 (reqWord 0x05 0 0)
  | .crcClr => .req32 (reqWord 0x10 0 0)
  | .crcByte a => .req32 (reqWord 0x11 a 0)
  | .crcRd => .req32 (reqWord 0x12 0 0)
  | .crcChan => .req32 (reqWord 0x13 0 0)
  | .crcMsg => .req32 (reqWord 0x14 0 0)
  | .crcCmpc v => .req32 (reqWord 0x15 0 v)
  | .crcCmpm v => .req32 (reqWord 0x16 0 v)
  | .msgChk => .req32 (reqWord 0x17 0 0)
  | .tmrLdw v => .req32 (reqWord 0x20 0 v)
  | .tmrLdm v => .req32 (reqWord 0x21 0 v)
  | .tmrLde v => .req32 (reqWord 0x22 0 v)
  | .tmrRdw => .req32 (reqWord 0x23 0 0)
  | .tmrRdm => .req32 (reqWord 0x24 0 0)
  | .tmrRde => .req32 (reqWord 0x25 0 0)
  | .tmrInit => .req32 (reqWord 0x26 0 0)
  | .tmrArmm => .req32 (reqWord 0x27 0 0)
  | .edgeTake => .req32 (reqWord 0x28 0 0)
  | .selIdx a => .req32 (reqWord 0x30 a 0)
  | .selAct => .req32 (reqWord 0x31 0 0)
  | .selNext => .req32 (reqWord 0x32 0 0)
  | .chLatch => .req32 (reqWord 0x33 0 0)
  | .chCmd a => .req32 (reqWord 0x34 a 0)
  | .chRd => .req32 (reqWord 0x35 0 0)
  | .channelSet k => .cmd8 (cmdByte 0xC k)
  | .channelAdd k => .cmd8 (cmdByte 0xB k)
  | .channelClearIfGt k => .cmd8 (cmdByte 0x9 k)
  | .endOfMessage k => .cmd8 (cmdByte 0xF k)
  | .ioIncrement k => .cmd8 (cmdByte 0xE k)
  | .ioDecrement k => .cmd8 (cmdByte 0xD k)
  | .ioSet k => .cmd8 (cmdByte 0xA k)
  | .unrecognized07 code k => .cmd8 (cmdByte code k)
  | .unrecognized8 k => .cmd8 (cmdByte 0x8 k)

/-- The request word by which a requester has the block carry out `i`. -/
def requestWord (i : Instr) : Word := (encode i).requestWord

/-! ### The opcode table's numbering of bits -/

/-- The encoded form of a table row's bits: the CMD8 rows of spec/opcode_table.json are one byte wide, the
REQ32 rows one 32-bit word. -/
def tableEncoded (nbits w : Nat) : Encoded :=
  if nbits ≤ 8 then .cmd8 (BitVec.ofNat 8 w) else .req32 (BitVec.ofNat 32 w)

/-- The instruction that the decoder reads from the bits of a row of spec/opcode_table.json. -/
def decodeTableWord (nbits w : Nat) : Option Instr :=
  match decodeEncoded (tableEncoded nbits w) with
  | .ok i => some i
  | .error _ => none

end Sys2Proof
end

