-- ==== Sys2Proof/Config.lean ====
section
/-!
DEFINITION. The implementation parameters of spec/00_scope.md rule R6: everything the block's behaviour depends
on that is not state. "A model takes them as a configuration record." A state carries its record and no step
changes it, so a claim about every state is a claim about every implementation. The parameters rule R6 fixes
(24 bytes a record, the polynomial, the sentinels, 16-bit timers) stand in the definitions that use them;
TICK_PERIOD is timing that no rule depends on (spec/70_reset_and_hazards.md rule R275) and is no parameter here.
-/

namespace Sys2Proof

/-- REG_BYTE_ORDER (spec/20_memory.md rule R65). -/
inductive ByteOrder where
  | big
  | little
deriving DecidableEq, Repr

/-- The parameters of rule R6 that are arguments of the model. -/
structure Config where
  /-- `N`, the channel count. -/
  channels : Nat
  /-- `NVM_BASE`, the store address of the first byte of the channel region. -/
  nvmBase : Nat
  /-- `PAGE_SIZE`, used only in the constraint on `NVM_BASE`. -/
  pageSize : Nat
  /-- `MSG_SIZE`, the bytes of the message region, the two reserved ones among them. -/
  msgSize : Nat
  /-- `ADDR_BITS`, the width of a store address. -/
  addrBits : Nat
  /-- `REG_BYTE_ORDER`. -/
  regByteOrder : ByteOrder
  /-- `ESC`, the escape byte. -/
  esc : Byte
  /-- The bytes `b` for which `EOM_MATCH(b)` holds, listed, since a predicate is no plain data. -/
  eomCodes : List Byte
  /-- `STORE_OVERWRITE` (spec/20_memory.md rule R84). -/
  storeOverwrite : Bool
  /-- `MASK_PENDING_DEPTH` (spec/93_implementation_defined.md U11). -/
  maskPendingDepth : Fin 2
  /-- `ZERO_ELEM_OK` (spec/93_implementation_defined.md U3). -/
  zeroElemOk : Bool
deriving DecidableEq, Repr

/-- The constraints that rule R6 puts on the arguments. -/
abbrev Config.Valid (c : Config) : Prop :=
  (1 ≤ c.channels ∧ c.channels ≤ 100) ∧
  1 ≤ c.pageSize ∧
  c.nvmBase % c.pageSize = 0 ∧
  (18 ≤ c.msgSize ∧ c.msgSize ≤ 65536) ∧
  c.nvmBase + 24 * c.channels + c.msgSize ≤ 2 ^ c.addrBits

/-- The default end-of-message codes: the sixteen bytes with `b[7:4] = 0xF` (rule R6, decision D17). -/
def Config.defaultEomCodes : List Byte :=
  [0xF0, 0xF1, 0xF2, 0xF3, 0xF4, 0xF5, 0xF6, 0xF7, 0xF8, 0xF9, 0xFA, 0xFB, 0xFC, 0xFD, 0xFE, 0xFF]

/-- The instance that `State.reset` runs on. The defaults of rule R6 where it gives one (`ESC`, `EOM_MATCH`,
`REG_BYTE_ORDER`, the three alternative readings). DESIGN CHOICE (unsafe, notes/assumptions/1.md): three
channels, base 0, pages of one byte, a 64-byte message region and 16-bit addresses, for which rule R6 names a
constraint and no value; they are values that spec/95_test_vectors.md uses. -/
def Config.default : Config where
  channels := 3
  nvmBase := 0
  pageSize := 1
  msgSize := 64
  addrBits := 16
  regByteOrder := .big
  esc := 0x18
  eomCodes := Config.defaultEomCodes
  storeOverwrite := false
  maskPendingDepth := 1
  zeroElemOk := true

end Sys2Proof
end

