-- ==== Sys2Proof/Machine/State.lean ====
section
/-!
DEFINITION. The whole state of the model: the fourteen elements of the block (spec/10_state.md rule R20), its
ports, and what belongs to the agents around it (the store, the input pins, the events to come). All of it is
plain data.
-/

namespace Sys2Proof.Machine

/-- The status codes' names (spec/30_encoding.md rule R93). -/
inductive Status where
  | ok
  | crcMismatch
  | invalidMessage
  | invalidOp
  | invalidChannelIndex
  | storeWriteTruncated
deriving DecidableEq, Repr

/-- A channel record: "6 ordered 32-bit registers (R0..R5, increasing address)" (spec/20_memory.md rule R64). -/
structure Record where
  r0 : Word
  r1 : Word
  r2 : Word
  r3 : Word
  r4 : Word
  r5 : Word
deriving DecidableEq, Repr

/-- What `select` returns (rule R181): the record, the index asked for after `mod N`, the index returned, whether
the fallback was taken, and whether the record returned is itself empty. -/
structure Selection where
  record : Record
  asked : Nat
  returned : Nat
  fallback : Bool
  stillEmpty : Bool
deriving DecidableEq, Repr

/-- What an environment action reports to the environment (spec/20_memory.md rules R80 and R83). -/
inductive EnvReport where
  /-- The action was carried out. -/
  | done
  /-- Rejected with an error kind of rule R93; nothing was written. -/
  | rejected (st : Status)
  /-- Rejected for an index out of range, for which the rules name no error kind; nothing was written. -/
  | rejectedIndex
deriving DecidableEq, Repr

/-- What the last step put out. The response word is the answer to one request (spec/30_encoding.md rules R90
and R92); the record port "is part of the response of that one operation" and "is not held"
(spec/10_state.md rule R40), so it is `none` after every operation but SEL.IDX, SEL.ACT and SEL.NEXT. -/
inductive Output where
  | silent
  | answered (resp : Word) (rec : Option Record)
  | reported (r : EnvReport)
deriving DecidableEq, Repr

/-- An ENV.PROGRAM_CHANNEL under way: the bytes still to be written, and the offset in the record where the
next one goes (spec/20_memory.md rule R80). -/
structure ProgramRun where
  channel : Nat
  offset : Nat
  rest : List Byte
deriving DecidableEq, Repr

/-- The non-volatile store: a total function from address to byte (spec/20_memory.md rule R60), held as the
list of the bytes that are not erased (`Memory.wf` in Machine/Ops.lean says its canonical form). -/
abbrev Memory := List Host.Cell

/-- There is no fault: the block takes no trap and no operation stops it (spec/60_exceptions.md rules R230 and
R237; spec/30_encoding.md rule R92); an error is a status in the response. -/
inductive Fault
deriving DecidableEq, Repr

/-- Why a step is refused. -/
inductive Refusal where
  /-- Raised by `exec` for an instruction that has no meaning yet. Safe: no next state is claimed. -/
  | notModelled (mnemonic : String)
  /-- Raised by an environment store action while `tick_mask = 0`: "a model refuses a store write or erase
  attempted with `tick_mask = 0`" (spec/20_memory.md rule R84 (a)). Safe: the spec forbids the step. -/
  | storeActionUnmasked
  /-- Raised by an environment byte write onto a byte that is not erased, where STORE_OVERWRITE is off:
  "refuses the write otherwise" (rule R84 (b)). Safe: the document gives the write no effect. -/
  | byteNotErased (addr : Nat)
  /-- Raised by TMR.LDE 0 and by a TMR.INIT that would load the duration 0, only where ZERO_ELEM_OK is off
  (spec/41_timing.md rule R153, spec/93_implementation_defined.md U3). Safe: the default is on. -/
  | zeroElement
deriving DecidableEq, Repr

/-- The state of one model instance. -/
structure State where
  /-- The implementation parameters; no step changes them (spec/10_state.md rule R21). -/
  cfg : Config
  -- Integrity unit (rules R26, R27, R35)
  crcAcc : Half
  errFlag : Bool
  msgValid : Bool
  -- Timing unit (rules R28 to R34, R36)
  waitTimer : Half
  messageTimer : Half
  elemTimer : Half
  elemReload : Half
  delayReload : Half
  edgeFlag : Bool
  tickMask : Bool
  tickPending : Bool
  -- Selection unit (rules R37, R39)
  chBase : Nibble
  chDelta : Nibble
  reloadReq : Bool
  /-- The response and record ports, and the report of an environment action (rules R40, R90). -/
  out : Output
  /-- The input pins `ch_pins`, the environment's (rule R41). -/
  chPins : Nibble
  /-- The non-volatile store, the environment's (spec/20_memory.md rule R60). -/
  store : Memory
  /-- The channel programming under way, the environment's (rule R80). -/
  programming : Option ProgramRun
  /-- The steps still to come, first to come first. Which agent steps next is not fixed (rule R75): it is
  whatever this list says, and a claim about every state covers every interleaving. -/
  events : List Event
deriving DecidableEq, Repr

/-- What a step, a meaning or an event answers. -/
abbrev Result := Host.Outcome State Fault Refusal

/-- The machine right after reset: the block's elements as spec/70_reset_and_hazards.md rule R260 lists them.
Not given by the spec, DESIGN CHOICE: the instance (notes/assumptions/1.md), the pins and the store's contents
at the start (notes/assumptions/2.md and 3.md), and that no event is waiting (notes/assumptions/4.md). -/
def State.reset : State where
  cfg := Config.default
  crcAcc := 0x0000
  errFlag := false
  msgValid := false
  waitTimer := 0x0000
  messageTimer := 0x0000
  elemTimer := 0x0000
  elemReload := 0x0000
  delayReload := 0x0000
  edgeFlag := false
  tickMask := true
  tickPending := false
  chBase := 0x0
  chDelta := 0x0
  reloadReq := true
  out := .silent
  chPins := 0x0
  store := []
  programming := none
  events := []

end Sys2Proof.Machine
end

