-- ==== Sys2Proof/Machine/Operands.lean ====
section
/-!
DEFINITION. How operands and addresses are formed: the derived constants and the effective addresses of the
store (spec/20_memory.md rules R62, R63, R74), and the values assembled from bytes (rules R65, R66). The fields
of a request word and of a command byte are pulled out in Decode.lean; no operand is sign-extended, scaled or
shifted (spec/30_encoding.md rule R94).
-/

namespace Sys2Proof

/-- `CH_REGION_SIZE = 24·N` (rule R6). -/
def Config.chRegionSize (c : Config) : Nat := 24 * c.channels

/-- `MSG_BASE = NVM_BASE + 24·N` (rule R63). -/
def Config.msgBase (c : Config) : Nat := c.nvmBase + c.chRegionSize

/-- `MSG_USABLE = MSG_SIZE − 2`: the last two bytes are reserved (rule R63). -/
def Config.msgUsable (c : Config) : Nat := c.msgSize - 2

/-- The address of byte `k` of channel `ch` (rules R62 and R64). -/
def Config.chByteAddr (c : Config) (ch k : Nat) : Nat := c.nvmBase + 24 * ch + k

/-- The address of the byte at message offset `k` (rule R66). -/
def Config.msgByteAddr (c : Config) (k : Nat) : Nat := c.msgBase + k

/-- `EOM_MATCH(b)` (rule R6). -/
def Config.eomMatch (c : Config) (b : Byte) : Bool := c.eomCodes.contains b

/-- `BE16(b0, b1) = b0·256 + b1` (spec/00_scope.md rule R8). -/
def be16 (b0 b1 : Byte) : Half := b0 ++ b1

/-- One register of a record from its four bytes in increasing address order (rule R65). -/
def regOfBytes (order : ByteOrder) (b0 b1 b2 b3 : Byte) : Word :=
  match order with
  | .big => b0 ++ b1 ++ b2 ++ b3
  | .little => b3 ++ b2 ++ b1 ++ b0

/-- `SENTINEL32`, the empty-record mark (rule R6). -/
def sentinel32 : Word := 0xFFFFFFFF

/-- `SENTINEL16`, the unprogrammed element duration (rule R6). -/
def sentinel16 : Half := 0xFFFF

end Sys2Proof

namespace Sys2Proof.Machine

/-- `rec[r]`, register `Rr` of a record. -/
def Record.reg (rec : Record) (r : Fin 6) : Word :=
  match r with
  | 0 => rec.r0
  | 1 => rec.r1
  | 2 => rec.r2
  | 3 => rec.r3
  | 4 => rec.r4
  | 5 => rec.r5

end Sys2Proof.Machine
end

