-- ==== Sys2Proof/Machine/Flags.lean ====
section
/-!
DEFINITION. Every packing of flags and statuses into a word: the response word and its fields
(spec/30_encoding.md rules R92 and R93), the `aux` bits, and the two flag summaries `stat()`
(spec/43_system.md rule R215) and `chrd()` (spec/42_selection.md rule R195).
-/

namespace Sys2Proof.Machine

/-- `zext_16` of a one-bit flag. -/
def flag16 (b : Bool) : Half := if b then 1 else 0

/-- The `aux` value with bit 0 = `b0` and bit 1 = `b1`, every other bit 0. -/
def auxBits (b0 b1 : Bool) : Byte := (if b0 then 1 else 0) + 2 * (if b1 then 1 else 0)

/-- The status numbers of rule R93. -/
def Status.code : Status → Byte
  | .ok => 0x00
  | .crcMismatch => 0x01
  | .invalidMessage => 0x02
  | .invalidOp => 0x03
  | .invalidChannelIndex => 0x04
  | .storeWriteTruncated => 0x05

/-- RESP32: `status` in bits 31:24, `aux` in bits 23:16, `value` in bits 15:0 (rule R92). -/
def respWord (st : Status) (aux : Byte) (value : Half) : Word := st.code ++ aux ++ value

/-- `ch_active = (ch_base + ch_delta) mod 16` (spec/42_selection.md rule R180). -/
def State.chActive (s : State) : Nibble := s.chBase + s.chDelta

/-- `chrd()`, rule R195. -/
def State.chrd (s : State) : Half :=
  s.chBase.setWidth 16 + (s.chDelta.setWidth 16 <<< 4) + (s.chActive.setWidth 16 <<< 8) + (flag16 s.reloadReq <<< 12)

/-- `stat()`, rule R215. -/
def State.stat (s : State) : Half :=
  flag16 s.edgeFlag + (flag16 s.errFlag <<< 1) + (flag16 s.msgValid <<< 2) + (flag16 s.reloadReq <<< 3) +
    (flag16 s.tickMask <<< 4) + (flag16 s.tickPending <<< 5) + (flag16 (s.waitTimer == 0) <<< 6) +
    (flag16 (s.messageTimer == 0) <<< 7) + (s.chActive.setWidth 16 <<< 8)

end Sys2Proof.Machine
end

