-- ==== Sys2Proof/Machine/Ops.lean ====
section
/-!
DEFINITION. The named operations that the meanings share: the store (spec/20_memory.md), the CRC
(spec/40_integrity.md rules R120, R121), the message-bank tests (rules R123, R124), the delivered tick
(spec/41_timing.md rule R151), the channel selection (spec/42_selection.md rules R181, R182), the ways an
operation answers (spec/30_encoding.md rule R92) and the reset of the block (spec/70_reset_and_hazards.md
rule R260). There is no exception to take and none to return from: `raise` below is all an error does
(spec/60_exceptions.md rules R230 and R237).
-/

namespace Sys2Proof.Machine

/-! ### The store -/

/-- What an address reads as that the list does not name: an erased byte (spec/20_memory.md rule R73).
DESIGN CHOICE for a byte nothing has erased or written (unsafe, notes/assumptions/3.md). -/
def erasedByte : Byte := 0xFF

/-- `MemRead(addr, 1)`: it always succeeds and has no side effect (rule R68). -/
def Memory.read : Memory → Nat → Byte
  | [], _ => erasedByte
  | (k, v) :: m, a => if k = a then v else Memory.read m a

/-- `MemRead(addr, n)`: the `n` bytes from `addr` up, in increasing address order (rule R68). -/
def Memory.readRange (m : Memory) (addr n : Nat) : List Byte := (List.range n).map fun j => m.read (addr + j)

/-- `MemWrite(addr, 1, b)`, keeping the canonical form. -/
def Memory.write : Memory → Nat → Byte → Memory
  | [], a, b => if b = erasedByte then [] else [(a, b)]
  | (k, v) :: m, a, b =>
    if a < k then (if b = erasedByte then (k, v) :: m else (a, b) :: (k, v) :: m)
    else if a = k then (if b = erasedByte then m else (a, b) :: m)
    else (k, v) :: Memory.write m a b

/-- The bytes at `lo` to `lo + n − 1` become erased in one step (rules R81 and R82). -/
def Memory.eraseRange (m : Memory) (lo n : Nat) : Memory := m.filter fun c => !(decide (lo ≤ c.1) && decide (c.1 < lo + n))

/-- The canonical form: addresses strictly rising, and no entry that says what an unlisted address says. -/
abbrev Memory.wf (m : Memory) : Prop := m.Pairwise (fun c d => c.1 < d.1) ∧ ∀ c ∈ m, c.2 ≠ erasedByte

/-- `chan_byte(c, k)` (spec/20_memory.md rule R64). -/
def State.chanByte (s : State) (c k : Nat) : Byte := s.store.read (s.cfg.chByteAddr c k)

/-- `chan_reg(c, r)` (rule R65). -/
def State.chanReg (s : State) (c r : Nat) : Word :=
  regOfBytes s.cfg.regByteOrder (s.chanByte c (4 * r)) (s.chanByte c (4 * r + 1)) (s.chanByte c (4 * r + 2))
    (s.chanByte c (4 * r + 3))

/-- `msg_byte(k)` (rule R66). -/
def State.msgByte (s : State) (k : Nat) : Byte := s.store.read (s.cfg.msgByteAddr k)

/-- `elem_dur`, message offsets 2 and 3 (rule R66). -/
def State.elemDur (s : State) : Half := be16 (s.msgByte 2) (s.msgByte 3)

/-- `msg_delay`, message offsets 4 and 5 (rule R66). -/
def State.msgDelay (s : State) : Half := be16 (s.msgByte 4) (s.msgByte 5)

/-! ### How an operation answers -/

/-- `respond(status, aux, value)`: the operation ends with this response word and no record (rule R92). -/
def State.respond (s : State) (st : Status) (aux : Byte) (value : Half) : State :=
  { s with out := .answered (respWord st aux value) none }

/-- `rec <- R` and then `respond(status, aux, value)` (spec/42_selection.md rule R184). -/
def State.respondRecord (s : State) (st : Status) (aux : Byte) (value : Half) (rec : Record) : State :=
  { s with out := .answered (respWord st aux value) (some rec) }

/-- `raise Status(code)`: "shorthand for `respond(code, 0, 0)`"; control goes nowhere (spec/00_scope.md rule R10,
spec/60_exceptions.md rule R230). -/
def State.raise (s : State) (st : Status) : State := s.respond st 0 0

/-- What an environment action reports. -/
def State.report (s : State) (r : EnvReport) : State := { s with out := .reported r }

/-! ### The CRC -/

/-- One of the eight rounds of rule R120: the high bit is tested before the shift. -/
def crcRound (t : Half) : Half := if t.msb then (t <<< 1) ^^^ 0x1021 else t <<< 1

/-- `crc_step(c, b)`, rule R120. -/
def crcStep (c : Half) (b : Byte) : Half := Nat.repeat crcRound 8 (c ^^^ (b.setWidth 16 <<< 8))

/-- `crc16(seq)`, rule R121: the left fold from 0x0000. -/
def crc16 (bytes : List Byte) : Half := bytes.foldl crcStep 0x0000

/-- The CRC of the channel region, all `24·N` bytes of it (rule R125). -/
def State.chanCrc (s : State) : Half := crc16 (s.store.readRange s.cfg.nvmBase s.cfg.chRegionSize)

/-- The CRC of the first `len` bytes of the message bank (rule R126). -/
def State.msgCrc (s : State) (len : Nat) : Half := crc16 (s.store.readRange s.cfg.msgBase len)

/-! ### The message-bank tests -/

/-- The two bytes at message offsets `i` and `i + 1` are a terminator (rule R123). -/
def State.termAt (s : State) (i : Nat) : Bool := s.msgByte i == s.cfg.esc && s.cfg.eomMatch (s.msgByte (i + 1))

/-- `term_scan()`: of the offsets 14 to `MSG_USABLE − 2`, ascending, the first where a pair stands; the answer is
the length through the pair (rule R123). -/
def State.termScan (s : State) : Option Nat :=
  ((List.range s.cfg.msgUsable).find? fun i =>
    decide (14 ≤ i) && decide (i + 2 ≤ s.cfg.msgUsable) && s.termAt i).map (· + 2)

/-- `dur_ok` of rule R124. -/
def State.durOk (s : State) : Bool := s.elemDur != sentinel16

/-- The `ok` of `msg_ok()`, rule R124. -/
def State.msgOk (s : State) : Bool := s.termScan.isSome && s.durOk

/-- `aux <- term_fnd + 2·dur_ok` (rules R129 and R161). -/
def State.msgAux (s : State) : Byte := auxBits s.termScan.isSome s.durOk

/-! ### The delivered tick -/

/-- A countdown counter's step: it stops at zero (spec/41_timing.md rule R151). -/
def countDown (t : Half) : Half := if t = 0 then 0 else t - 1

/-- `do_tick()`, rule R151: the zero test of the element timer comes after its decrement. -/
def State.doTick (s : State) : State :=
  { s with
    waitTimer := countDown s.waitTimer
    messageTimer := countDown s.messageTimer
    elemTimer := if countDown s.elemTimer = 0 then s.elemReload else countDown s.elemTimer
    edgeFlag := if countDown s.elemTimer = 0 then true else s.edgeFlag }

/-! ### The selection -/

/-- `empty(c)`: only R5 is tested (rule R182). -/
def State.emptyRecord (s : State) (c : Nat) : Bool := s.chanReg c 5 == sentinel32

/-- The six registers of record `c`. -/
def State.chanRecord (s : State) (c : Nat) : Record where
  r0 := s.chanReg c 0
  r1 := s.chanReg c 1
  r2 := s.chanReg c 2
  r3 := s.chanReg c 3
  r4 := s.chanReg c 4
  r5 := s.chanReg c 5

/-- `c2` of rule R181: one level of fallback only. -/
def State.returnedIndex (s : State) (c : Nat) : Nat := if s.emptyRecord c then 0 else c

/-- `select(i)`, rule R181. -/
def State.select (s : State) (i : Nat) : Selection :=
  let c := i % s.cfg.channels
  let c2 := s.returnedIndex c
  { record := s.chanRecord c2, asked := c, returned := c2, fallback := s.emptyRecord c, stillEmpty := s.emptyRecord c2 }

/-- The response of the three SEL operations (rule R184). -/
def State.respondSelection (s : State) (sel : Selection) : State :=
  s.respondRecord .ok (auxBits sel.fallback sel.stillEmpty)
    ((BitVec.ofNat 16 sel.asked <<< 8) + BitVec.ofNat 16 sel.returned) sel.record

/-- How a CH.CMD command ends: `respond(OK, hit + 2·rl, chrd())` after the update (rule R191). -/
def State.respondCommand (s : State) (hit rl : Bool) : State := s.respond .ok (auxBits hit rl) s.chrd

/-! ### Reset -/

/-- The reset event: every element of the block at the value of rule R260; no store byte changes and the pins
are not sampled (rule R261). The environment's own state and the events still to come are not the block's. -/
def State.resetBlock (s : State) : State :=
  { s with
    crcAcc := 0x0000
    errFlag := false
    msgValid := false
    waitTimer := 0x0000
    messageTimer := 0x0000
    elemTimer := 0x0000
    elemReload := 0x0000
    delayReload := 0x0000
    edgeFlag := false
    tickMask := true
    tickPending := false
    chBase := 0x0
    chDelta := 0x0
    reloadReq := true
    out := .silent }

end Sys2Proof.Machine
end

