-- ==== Sys2Proof/Machine/Integrity.lean ====
section
/-!
DEFINITION. The operations of the Integrity unit (spec/40_integrity.md).
-/

namespace Sys2Proof.Machine

/-- CRC.CLR, rule R130. -/
def execCrcClr (s : State) : Result := .next ({ s with crcAcc := 0x0000 }.respond .ok 0 0x0000)

/-- CRC.BYTE, rule R131: the response carries the new value. -/
def execCrcByte (a : Byte) (s : State) : Result :=
  let c := crcStep s.crcAcc a
  .next ({ s with crcAcc := c }.respond .ok 0 c)

/-- CRC.RD, rule R132. -/
def execCrcRd (s : State) : Result := .next (s.respond .ok 0 s.crcAcc)

/-- CRC.CHAN, rule R125. -/
def execCrcChan (s : State) : Result :=
  let c := s.chanCrc
  .next ({ s with crcAcc := c }.respond .ok 0 c)

/-- CRC.MSG, rule R126: without a terminator `crc_acc` is left as it was. -/
def execCrcMsg (s : State) : Result :=
  match s.termScan with
  | none => .next (s.raise .invalidMessage)
  | some len =>
    let c := s.msgCrc len
    .next ({ s with crcAcc := c }.respond .ok 0 c)

/-- The end of both compares: `crc_acc` holds the computed CRC, and a mismatch latches `err_flag`
(rules R127 and R128). -/
def State.compareCrc (s : State) (c v : Half) : State :=
  if c = v then { s with crcAcc := c }.respond .ok 0 c
  else { s with crcAcc := c, errFlag := true }.respond .crcMismatch 0 c

/-- CRC.CMPC, rule R127. -/
def execCrcCmpc (v : Half) (s : State) : Result := .next (s.compareCrc s.chanCrc v)

/-- CRC.CMPM, rule R128: a missing terminator latches `err_flag` and leaves `crc_acc`. -/
def execCrcCmpm (v : Half) (s : State) : Result :=
  match s.termScan with
  | none => .next ({ s with errFlag := true }.raise .invalidMessage)
  | some len => .next (s.compareCrc (s.msgCrc len) v)

/-- MSG.CHK, rule R129. -/
def execMsgChk (s : State) : Result :=
  let len := BitVec.ofNat 16 (s.termScan.getD 0)
  let st := if s.msgOk then Status.ok else Status.invalidMessage
  .next ({ s with msgValid := s.msgOk }.respond st s.msgAux len)

end Sys2Proof.Machine
end

