-- ==== Sys2Proof/Machine/Selection.lean ====
section
/-!
DEFINITION. The operations of the Selection unit and the CMD8 commands (spec/42_selection.md). A CMD8 command is
carried out by the CH.CMD that carries it, so its meaning ends as CH.CMD does (rule R191): `aux` bit 0 says that
the byte was one of the three channel commands, bit 1 that it set `reload_req`.
-/

namespace Sys2Proof.Machine

/-- SEL.IDX, rule R185. -/
def execSelIdx (a : Byte) (s : State) : Result := .next (s.respondSelection (s.select a.toNat))

/-- SEL.ACT, rule R186. -/
def execSelAct (s : State) : Result :=
  .next ({ s with reloadReq := false }.respondSelection (s.select s.chActive.toNat))

/-- SEL.NEXT, rule R187: "next" wraps mod 16 before `select` reduces it mod `N`. -/
def execSelNext (s : State) : Result := .next (s.respondSelection (s.select (s.chActive + 1).toNat))

/-- CH.LATCH, rule R190: `ch_delta` is not changed; `chrd()` is taken after the update. -/
def execChLatch (s : State) : Result :=
  let t := { s with chBase := s.chPins, reloadReq := true }
  .next (t.respond .ok 0 t.chrd)

/-- CH.RD, rule R195. -/
def execChRd (s : State) : Result := .next (s.respond .ok 0 s.chrd)

/-- CHANNEL_SET, rule R192. -/
def execChannelSet (k : Nibble) (s : State) : Result :=
  .next ({ s with chBase := k, chDelta := 0, reloadReq := true }.respondCommand true true)

/-- CHANNEL_ADD, rule R193: the sum wraps mod 16. -/
def execChannelAdd (k : Nibble) (s : State) : Result :=
  .next ({ s with chDelta := s.chDelta + k, reloadReq := true }.respondCommand true true)

/-- CHANNEL_CLEAR_IF_GT, rule R194: an unsigned 4-bit compare; the reload is part of the conditional effect. -/
def execChannelClearIfGt (k : Nibble) (s : State) : Result :=
  if k < s.chDelta then .next ({ s with chDelta := 0, reloadReq := true }.respondCommand true true)
  else .next (s.respondCommand true false)

/-- END_OF_MESSAGE: no effect in this block (rule R196). -/
def execEndOfMessage (_k : Nibble) (s : State) : Result := .next (s.respondCommand false false)

/-- IO_INCREMENT: no effect in this block (rule R196). -/
def execIoIncrement (_k : Nibble) (s : State) : Result := .next (s.respondCommand false false)

/-- IO_DECREMENT: no effect in this block (rule R196). -/
def execIoDecrement (_k : Nibble) (s : State) : Result := .next (s.respondCommand false false)

/-- IO_SET: no effect in this block (rule R196). -/
def execIoSet (_k : Nibble) (s : State) : Result := .next (s.respondCommand false false)

/-- The codes 0x0 to 0x7, which fall through to END_OF_MESSAGE: no effect in this block (rule R196). -/
def execUnrecognized07 (_code _k : Nibble) (s : State) : Result := .next (s.respondCommand false false)

/-- The code 0x8, which falls through to END_OF_MESSAGE: no effect in this block (rule R196). -/
def execUnrecognized8 (_k : Nibble) (s : State) : Result := .next (s.respondCommand false false)

/-- CH.CMD, rule R191: carry out the command byte `a`. No command byte is an error. -/
def execChCmd (a : Byte) (s : State) : Result :=
  match (cmdCode a).toNat with
  | 0xC => execChannelSet (cmdOperand a) s
  | 0xB => execChannelAdd (cmdOperand a) s
  | 0x9 => execChannelClearIfGt (cmdOperand a) s
  | _ => .next (s.respondCommand false false)

end Sys2Proof.Machine
end

