-- ==== Sys2Proof/Machine/System.lean ====
section
/-!
DEFINITION. The system operations (spec/43_system.md).
-/

namespace Sys2Proof.Machine

/-- NOP, rule R210. -/
def execNop (s : State) : Result := .next (s.respond .ok 0 0)

/-- TICK.MASK, rule R211: `tick_pending` is not changed. -/
def execTickMask (s : State) : Result := .next ({ s with tickMask := true }.respond .ok 0 0)

/-- TICK.UNMASK, rule R212: a pending tick is delivered inside the same step, before the response. -/
def execTickUnmask (s : State) : Result :=
  let p := s.tickPending
  let unmasked := { s with tickMask := false }
  .next ((if p then { unmasked with tickPending := false }.doTick else unmasked).respond .ok 0 (flag16 p))

/-- ERR.RD, rule R213. -/
def execErrRd (s : State) : Result := .next (s.respond .ok 0 (flag16 s.errFlag))

/-- ERR.CLR, rule R214: it answers the old value. -/
def execErrClr (s : State) : Result := .next ({ s with errFlag := false }.respond .ok 0 (flag16 s.errFlag))

/-- STAT.RD, rule R215. -/
def execStatRd (s : State) : Result := .next (s.respond .ok 0 s.stat)

end Sys2Proof.Machine
end

