-- ==== Sys2Proof/Machine/Timing.lean ====
section
/-!
DEFINITION. The tick event and the operations of the Timing unit (spec/41_timing.md).
-/

namespace Sys2Proof.Machine

/-- The tick event, rule R150: while masked, one tick is remembered and further ones are lost
(none is remembered where MASK_PENDING_DEPTH is 0, spec/93_implementation_defined.md U11). -/
def State.tickEvent (s : State) : State :=
  if s.tickMask then { s with tickPending := s.tickPending || s.cfg.maskPendingDepth == 1 } else s.doTick

/-- TMR.LDW, rule R155. -/
def execTmrLdw (v : Half) (s : State) : Result := .next ({ s with waitTimer := v }.respond .ok 0 v)

/-- TMR.LDM, rule R156. -/
def execTmrLdm (v : Half) (s : State) : Result := .next ({ s with messageTimer := v }.respond .ok 0 v)

/-- TMR.LDE, rule R157: the timer is loaded with the reload register and `edge_flag` is kept. The load of 0 is
an ordinary one unless ZERO_ELEM_OK is off (rule R153, spec/93_implementation_defined.md U3). -/
def execTmrLde (v : Half) (s : State) : Result :=
  if v = 0 ∧ s.cfg.zeroElemOk = false then .refused .zeroElement
  else .next ({ s with elemReload := v, elemTimer := v }.respond .ok 0 v)

/-- TMR.RDW, rule R158. -/
def execTmrRdw (s : State) : Result := .next (s.respond .ok 0 s.waitTimer)

/-- TMR.RDM, rule R159. -/
def execTmrRdm (s : State) : Result := .next (s.respond .ok 0 s.messageTimer)

/-- TMR.RDE, rule R160. -/
def execTmrRde (s : State) : Result := .next (s.respond .ok 0 s.elemTimer)

/-- TMR.INIT, rule R161: on InvalidMessage nothing but `msg_valid` changes. The load of the duration 0 is an
ordinary one unless ZERO_ELEM_OK is off (rule R153, spec/93_implementation_defined.md U3). -/
def execTmrInit (s : State) : Result :=
  let d := s.elemDur
  if s.msgOk = false then .next ({ s with msgValid := false }.respond .invalidMessage s.msgAux d)
  else if d = 0 ∧ s.cfg.zeroElemOk = false then .refused .zeroElement
  else
    .next ({ s with
      msgValid := true
      elemReload := d
      elemTimer := d
      delayReload := s.msgDelay
      edgeFlag := false }.respond .ok s.msgAux d)

/-- TMR.ARMM, rule R162. -/
def execTmrArmm (s : State) : Result := .next ({ s with messageTimer := s.delayReload }.respond .ok 0 s.delayReload)

/-- EDGE.TAKE, rule R163: an atomic test-and-clear. -/
def execEdgeTake (s : State) : Result := .next ({ s with edgeFlag := false }.respond .ok 0 (flag16 s.edgeFlag))

end Sys2Proof.Machine
end

