-- ==== Sys2Proof/Machine/Dispatch.lean ====
section
/-!
DEFINITION. The meaning of every instruction, one arm per row of spec/opcode_table.json, in the table's order.
-/

namespace Sys2Proof.Machine

def exec (i : Instr) (s : State) : Host.Outcome State Fault Refusal :=
  match i with
  | .nop => Sys2Proof.Machine.execNop s
  | .tickMask => Sys2Proof.Machine.execTickMask s
  | .tickUnmask => Sys2Proof.Machine.execTickUnmask s
  | .errRd => Sys2Proof.Machine.execErrRd s
  | .errClr => Sys2Proof.Machine.execErrClr s
  | .statRd => Sys2Proof.Machine.execStatRd s
  | .crcClr => Sys2Proof.Machine.execCrcClr s
  | .crcByte a => Sys2Proof.Machine.execCrcByte a s
  | .crcRd => Sys2Proof.Machine.execCrcRd s
  | .crcChan => Sys2Proof.Machine.execCrcChan s
  | .crcMsg => Sys2Proof.Machine.execCrcMsg s
  | .crcCmpc v => Sys2Proof.Machine.execCrcCmpc v s
  | .crcCmpm v => Sys2Proof.Machine.execCrcCmpm v s
  | .msgChk => Sys2Proof.Machine.execMsgChk s
  | .tmrLdw v => Sys2Proof.Machine.execTmrLdw v s
  | .tmrLdm v => Sys2Proof.Machine.execTmrLdm v s
  | .tmrLde v => Sys2Proof.Machine.execTmrLde v s
  | .tmrRdw => Sys2Proof.Machine.execTmrRdw s
  | .tmrRdm => Sys2Proof.Machine.execTmrRdm s
  | .tmrRde => Sys2Proof.Machine.execTmrRde s
  | .tmrInit => Sys2Proof.Machine.execTmrInit s
  | .tmrArmm => Sys2Proof.Machine.execTmrArmm s
  | .edgeTake => Sys2Proof.Machine.execEdgeTake s
  | .selIdx a => Sys2Proof.Machine.execSelIdx a s
  | .selAct => Sys2Proof.Machine.execSelAct s
  | .selNext => Sys2Proof.Machine.execSelNext s
  | .chLatch => Sys2Proof.Machine.execChLatch s
  | .chCmd a => Sys2Proof.Machine.execChCmd a s
  | .chRd => Sys2Proof.Machine.execChRd s
  | .channelSet k => Sys2Proof.Machine.execChannelSet k s
  | .channelAdd k => Sys2Proof.Machine.execChannelAdd k s
  | .channelClearIfGt k => Sys2Proof.Machine.execChannelClearIfGt k s
  | .endOfMessage k => Sys2Proof.Machine.execEndOfMessage k s
  | .ioIncrement k => Sys2Proof.Machine.execIoIncrement k s
  | .ioDecrement k => Sys2Proof.Machine.execIoDecrement k s
  | .ioSet k => Sys2Proof.Machine.execIoSet k s
  | .unrecognized07 code k => Sys2Proof.Machine.execUnrecognized07 code k s
  | .unrecognized8 k => Sys2Proof.Machine.execUnrecognized8 k s

end Sys2Proof.Machine
end

