-- ==== Sys2Proof/Machine/Environment.lean ====
section
/-!
DEFINITION. The environment's actions (spec/20_memory.md rules R80 to R86). They have no opcode; they are steps of
the environment that a run may hold between any two other steps.
-/

namespace Sys2Proof.Machine

/-- Rule R84 (a): a store action is taken only while `tick_mask = 1`. -/
def storeAction (s : State) (act : State → Result) : Result :=
  if s.tickMask then act s else .refused .storeActionUnmasked

/-- One byte write, rule R84 (b): onto an erased byte the byte written is the new content; onto another the
write is refused, unless STORE_OVERWRITE is set, and then the new byte replaces the old. -/
def writeStoreByte (addr : Nat) (b : Byte) (s : State) : Result :=
  if s.store.read addr = erasedByte ∨ s.cfg.storeOverwrite then
    .next ({ s with store := s.store.write addr b }.report .done)
  else .refused (.byteNotErased addr)

/-- ENV.PROGRAM_CHANNEL(c, bytes), rule R80: the two checks, in the rule's order, then the start of the byte
writes, each a step of its own (`programStep`). DESIGN CHOICE: notes/assumptions/6.md. -/
def programChannel (c : Nat) (bytes : List Byte) (s : State) : Result :=
  storeAction s fun s =>
    if s.cfg.channels ≤ c then .next (s.report (.rejected .invalidChannelIndex))
    else if bytes.length ≠ 24 then .next (s.report (.rejected .storeWriteTruncated))
    else .next ({ s with programming := some { channel := c, offset := 0, rest := bytes } }.report .done)

/-- The next byte write of the programming under way: ENV.WRITE_CH_BYTE(c, k, bytes[k]) for the next `k`
(rule R80). With none under way there is nothing to do. -/
def programStep (s : State) : Result :=
  match s.programming with
  | none => .next (s.report .done)
  | some p =>
    match p.rest with
    | [] => .next ({ s with programming := none }.report .done)
    | b :: bs =>
      let left := if bs = [] then none else some { p with offset := p.offset + 1, rest := bs }
      storeAction { s with programming := left } (writeStoreByte (s.cfg.chByteAddr p.channel p.offset) b)

/-- ENV.WRITE_CH_BYTE(c, k, b), rule R80. A channel index `c ≥ N` is rejected and writes nothing, without an error
kind, since InvalidChannelIndex is ENV.PROGRAM_CHANNEL's only (spec/30_encoding.md rule R93; DEDUCED:
notes/assumptions/7.md). -/
def writeChByte (c : Nat) (k : Fin 24) (b : Byte) (s : State) : Result :=
  storeAction s fun s =>
    if s.cfg.channels ≤ c then .next (s.report .rejectedIndex)
    else writeStoreByte (s.cfg.chByteAddr c k) b s

/-- ENV.ERASE_CHANNELS, rule R81: the whole channel region and nothing of the message region. -/
def eraseChannels (s : State) : Result :=
  storeAction s fun s =>
    .next ({ s with store := s.store.eraseRange s.cfg.nvmBase s.cfg.chRegionSize }.report .done)

/-- ENV.ERASE_MESSAGE, rule R82: the usable part of the message region; the two reserved bytes stay. -/
def eraseMessage (s : State) : Result :=
  storeAction s fun s =>
    .next ({ s with store := s.store.eraseRange s.cfg.msgBase s.cfg.msgUsable }.report .done)

/-- ENV.WRITE_MSG_BYTE(k, b), rule R83: an index in the reserved bytes or beyond "is rejected and writes
nothing". -/
def writeMsgByte (k : Half) (b : Byte) (s : State) : Result :=
  storeAction s fun s =>
    if s.cfg.msgUsable ≤ k.toNat then .next (s.report .rejectedIndex)
    else writeStoreByte (s.cfg.msgByteAddr k.toNat) b s

/-- ENV.SET_PINS(p), rule R86: "at any time between steps"; no block state changes. -/
def setPins (p : Nibble) (s : State) : Result := .next ({ s with chPins := p }.report .done)

/-- One action of the environment. -/
def runEnv (act : EnvAction) (s : State) : Result :=
  match act with
  | .programChannel c bytes => programChannel c bytes s
  | .programStep => programStep s
  | .writeChByte c k b => writeChByte c k b s
  | .eraseChannels => eraseChannels s
  | .eraseMessage => eraseMessage s
  | .writeMsgByte k b => writeMsgByte k b s
  | .setPins p => setPins p s

end Sys2Proof.Machine
end

