-- ==== Sys2Proof/Machine/Events.lean ====
section
/-!
DEFINITION. One step of one agent (spec/20_memory.md rule R75): a request carried out to its response, one tick
event, one reset, or one environment action; and how the next step is taken from the events to come.
-/

namespace Sys2Proof.Machine

/-- One request word, carried out to its response (spec/30_encoding.md rule R90). A rejected word changes no
state and answers InvalidOp (rule R98). -/
def runRequest (w : Word) (s : State) : Result :=
  match decode w with
  | .ok i => exec i s
  | .error _ => .next (s.raise .invalidOp)

/-- One step of one agent. A tick and a reset put out nothing. -/
def runEvent (e : Event) (s : State) : Result :=
  match e with
  | .request w => runRequest w s
  | .tick => .next { s.tickEvent with out := .silent }
  | .reset => .next s.resetBlock
  | .env act => runEnv act s

/-- The step the events to come ask for. With no event no agent steps and the state stays as it is: "an idle
request bus does nothing" (spec/43_system.md rule R210). DESIGN CHOICE: notes/assumptions/4.md. -/
def runNext (s : State) : Result :=
  match s.events with
  | [] => .next s
  | e :: es => runEvent e { s with events := es }

/-- The state in which `e` is the next event to happen. -/
def State.pushEvent (s : State) (e : Event) : State := { s with events := e :: s.events }

end Sys2Proof.Machine
end

