-- ==== Sys2Proof/Machine/Step.lean ====
section
/-!
DEFINITION. The step of the machine, and how a table row's instruction is put where the next step takes it.
-/

namespace Sys2Proof.Machine

/-- One step of the machine: the next event of the events to come (spec/20_memory.md rule R75). The block fetches
nothing (spec/10_state.md rule R24); a request word reaches it from the requester. -/
def step (s : State) : Host.Outcome State Fault Refusal := runNext s

/-- `s` with the request that presents a table row's instruction as the very next event: a REQ32 row is the
request word itself, a CMD8 row is carried in CH.CMD (spec/42_selection.md rule R191). -/
def State.withFetchWord (s : State) (nbits w : Nat) : State :=
  s.pushEvent (.request (tableEncoded nbits w).requestWord)

end Sys2Proof.Machine
end

