-- ==== Sys2Proof/Safety.lean ====
section
/-!
DEFINITION. The terms that claims use: the invariant of the model's states, what the next event asks for, and the
response word as a number.
-/

namespace Sys2Proof.Machine

/-- What holds right after reset and after every step. -/
structure State.Inv (s : State) : Prop where
  /-- The parameters meet the constraints of spec/00_scope.md rule R6. -/
  cfgValid : s.cfg.Valid
  /-- The store is in its canonical form. -/
  storeWf : s.store.wf
  /-- A store address has `ADDR_BITS` bits (spec/20_memory.md rule R61). -/
  storeInRange : ∀ c ∈ s.store, c.1 < 2 ^ s.cfg.addrBits
  /-- With ticks unmasked nothing is pending (spec/43_system.md rule R212). -/
  pendingOnlyMasked : s.tickMask = false → s.tickPending = false
  /-- With MASK_PENDING_DEPTH 0 `tick_pending` is always 0 (spec/93_implementation_defined.md U11). -/
  pendingDepth : s.cfg.maskPendingDepth = 0 → s.tickPending = false
  /-- The element timer never exceeds its reload value … (spec/10_state.md rule R30). -/
  elemAtMost : s.elemTimer ≤ s.elemReload
  /-- … and is never 0 once a duration is configured (rule R30). -/
  elemNotZero : s.elemReload ≠ 0 → s.elemTimer ≠ 0
  /-- A programming under way is of a channel that exists, at an offset inside its record
  (spec/20_memory.md rule R80). -/
  programInRecord : ∀ p, s.programming = some p → p.channel < s.cfg.channels ∧ p.offset + p.rest.length = 24

/-- The instruction that the next event asks the block to carry out, where it is a request that is not
rejected. -/
def State.nextInstr (s : State) : Option Instr :=
  match s.events with
  | .request w :: _ =>
    match decode w with
    | .ok i => some i
    | .error _ => none
  | _ => none

/-- The next event is `e`. -/
def State.nextIs (s : State) (e : Event) : Prop := s.events.head? = some e

/-- A response word as a number, `status << 24 + aux << 16 + value` (spec/30_encoding.md rule R92). -/
def resp32 (status aux value : Nat) : Word := BitVec.ofNat 32 (status * 2 ^ 24 + aux * 2 ^ 16 + value)

/-- A flag as a number. -/
def bit (b : Bool) : Nat := if b then 1 else 0

/-- An address the block may read: in the channel region or in the usable part of the message region
(spec/20_memory.md rule R74). -/
def blockReads (c : Config) (a : Nat) : Prop :=
  (c.nvmBase ≤ a ∧ a < c.nvmBase + 24 * c.channels) ∨
  (c.nvmBase + 24 * c.channels ≤ a ∧ a < c.nvmBase + 24 * c.channels + c.msgSize - 2)

/-- The value of `chrd()` as a number (spec/42_selection.md rule R195). -/
def chrdNat (base delta : Nibble) (reload : Bool) : Nat :=
  base.toNat + 16 * delta.toNat + 256 * ((base.toNat + delta.toNat) % 16) + 4096 * bit reload

/-- What a SEL operation answers for the index `i` (spec/42_selection.md rules R181, R182, R184), each register
of the record read from the store. -/
def selReply (s : State) (i : Nat) : Output :=
  let c := i % s.cfg.channels
  let fb := decide (s.chanReg c 5 = 0xFFFFFFFF)
  let c2 := if fb then 0 else c
  let e := decide (s.chanReg c2 5 = 0xFFFFFFFF)
  .answered (resp32 0 (bit fb + 2 * bit e) (256 * c + c2))
    (some { r0 := s.chanReg c2 0, r1 := s.chanReg c2 1, r2 := s.chanReg c2 2, r3 := s.chanReg c2 3,
            r4 := s.chanReg c2 4, r5 := s.chanReg c2 5 })

/-- The bytes of the channel region in address order (spec/20_memory.md rule R62). -/
def chanBytes (s : State) : List Byte := (List.range (24 * s.cfg.channels)).map fun j => s.store.read (s.cfg.nvmBase + j)

/-- The first `len` bytes of the message bank in address order (rules R63 and R66). -/
def bankBytes (s : State) (len : Nat) : List Byte :=
  (List.range len).map fun j => s.store.read (s.cfg.nvmBase + 24 * s.cfg.channels + j)

/-- The element duration in the bank, message offsets 2 and 3 big-endian (rule R66). -/
def durNat (s : State) : Nat := (s.msgByte 2).toNat * 256 + (s.msgByte 3).toNat

/-- The inter-message delay in the bank, message offsets 4 and 5 big-endian (rule R66). -/
def delayNat (s : State) : Nat := (s.msgByte 4).toNat * 256 + (s.msgByte 5).toNat

/-- The two `aux` bits of MSG.CHK and TMR.INIT (spec/40_integrity.md rule R129). -/
def bankAux (s : State) : Nat := bit s.termScan.isSome + 2 * bit (decide (durNat s ≠ 65535))

/-- The bank passes the validity test (spec/40_integrity.md rule R124). -/
abbrev bankOk (s : State) : Prop := s.termScan.isSome = true ∧ durNat s ≠ 65535

/-- `n` steps of the machine, stopping at the first refusal. -/
def runSteps : Nat → State → Result
  | 0, s => .next s
  | n + 1, s =>
    match step s with
    | .next t => runSteps n t
    | .fault f => .fault f
    | .refused r => .refused r

/-- `s` and `t` agree in every element of the block (spec/10_state.md rule R20). -/
def SameBlock (s t : State) : Prop :=
  t.crcAcc = s.crcAcc ∧ t.errFlag = s.errFlag ∧ t.msgValid = s.msgValid ∧ t.waitTimer = s.waitTimer ∧
  t.messageTimer = s.messageTimer ∧ t.elemTimer = s.elemTimer ∧ t.elemReload = s.elemReload ∧
  t.delayReload = s.delayReload ∧ t.edgeFlag = s.edgeFlag ∧ t.tickMask = s.tickMask ∧
  t.tickPending = s.tickPending ∧ t.chBase = s.chBase ∧ t.chDelta = s.chDelta ∧ t.reloadReq = s.reloadReq

end Sys2Proof.Machine
end

