-- ==== Sys2Proof/Certificates/Slice0/Obligations.lean ====
section
/-!
DEFINITION. The statements about the machine that the provers settle. Each is written from the numbered rules of
spec/ that OBLIGATIONS.json cites for it; numbers are computed with Nat arithmetic rather than with the model's
packings. The next state of a statement is the state before it with the changed elements named, so the statement
is also the frame: every element, every byte of the store and every other part of the state not named is as it
was. Where a statement speaks of a step, the event it takes is the first of the list `events`, which is how the model
holds the spec's "any interleaving" (notes/assumptions/4.md).
-/

section
open Sys2Proof Sys2Proof.Machine

/-! ### System operations -/

/-- Rule R210. The word 0 is NOP and changes nothing; a word with `op = 0` and any other bit set is not NOP. -/
def Obligations.NopHasNoEffect : Prop :=
  decode 0x00000000 = .ok .nop ∧
  (∀ s : State, exec .nop s = .next { s with out := .answered 0x00000000 none }) ∧
  ∀ (s : State) (w : Word), w.toNat < 2 ^ 24 → w ≠ 0 →
    step (s.pushEvent (.request w)) = .next { s with out := .answered 0x03000000 none }

/-- Rule R211. -/
def Obligations.TickMaskSetsTheMask : Prop :=
  decode 0x01000000 = .ok .tickMask ∧
  ∀ s : State, exec .tickMask s = .next { s with tickMask := true, out := .answered 0x00000000 none }

/-- Rule R212. A pending tick is delivered once, in the same step. -/
def Obligations.TickUnmaskDeliversThePendingTick : Prop :=
  decode 0x02000000 = .ok .tickUnmask ∧
  (∀ s : State, s.tickPending = false →
    exec .tickUnmask s = .next { s with tickMask := false, out := .answered 0x00000000 none }) ∧
  ∀ s : State, s.tickPending = true →
    exec .tickUnmask s =
      .next { State.doTick { s with tickMask := false, tickPending := false } with out := .answered 0x00000001 none }

/-- Rules R213 and R214. -/
def Obligations.ErrorFlagIsReadAndCleared : Prop :=
  decode 0x03000000 = .ok .errRd ∧ decode 0x04000000 = .ok .errClr ∧
  (∀ s : State, exec .errRd s = .next { s with out := .answered (resp32 0 0 (bit s.errFlag)) none }) ∧
  ∀ s : State,
    exec .errClr s = .next { s with errFlag := false, out := .answered (resp32 0 0 (bit s.errFlag)) none }

/-- Rule R215. -/
def Obligations.StatusReadShowsTheFlags : Prop :=
  decode 0x05000000 = .ok .statRd ∧
  ∀ s : State,
    exec .statRd s = .next { s with out := .answered (resp32 0 0
      (bit s.edgeFlag + 2 * bit s.errFlag + 4 * bit s.msgValid + 8 * bit s.reloadReq + 16 * bit s.tickMask +
        32 * bit s.tickPending + 64 * bit (decide (s.waitTimer = 0)) + 128 * bit (decide (s.messageTimer = 0)) +
        256 * ((s.chBase.toNat + s.chDelta.toNat) % 16))) none }

/-! ### Integrity unit -/

/-- Rules R130 and R132. -/
def Obligations.CrcAccumulatorIsClearedAndRead : Prop :=
  decode 0x10000000 = .ok .crcClr ∧ decode 0x12000000 = .ok .crcRd ∧
  (∀ s : State, exec .crcClr s = .next { s with crcAcc := 0x0000, out := .answered 0x00000000 none }) ∧
  ∀ s : State, exec .crcRd s = .next { s with out := .answered (resp32 0 0 s.crcAcc.toNat) none }

/-- Rule R131. -/
def Obligations.CrcByteFoldsOneByte : Prop :=
  (∀ b : Byte, decode (BitVec.ofNat 32 (0x11000000 + b.toNat * 2 ^ 16)) = .ok (.crcByte b)) ∧
  ∀ (b : Byte) (s : State),
    exec (.crcByte b) s =
      .next { s with
        crcAcc := crcStep s.crcAcc b
        out := .answered (resp32 0 0 (crcStep s.crcAcc b).toNat) none }

/-- Rule R125. -/
def Obligations.CrcOfTheChannelRegion : Prop :=
  decode 0x13000000 = .ok .crcChan ∧
  ∀ s : State,
    exec .crcChan s =
      .next { s with
        crcAcc := crc16 (chanBytes s)
        out := .answered (resp32 0 0 (crc16 (chanBytes s)).toNat) none }

/-- Rule R126. -/
def Obligations.CrcOfTheMessageRegion : Prop :=
  decode 0x14000000 = .ok .crcMsg ∧
  (∀ s : State, s.termScan = none → exec .crcMsg s = .next { s with out := .answered 0x02000000 none }) ∧
  ∀ (s : State) (len : Nat), s.termScan = some len →
    exec .crcMsg s =
      .next { s with
        crcAcc := crc16 (bankBytes s len)
        out := .answered (resp32 0 0 (crc16 (bankBytes s len)).toNat) none }

/-- Rule R127. A passing compare leaves `err_flag` as it was. -/
def Obligations.CompareOfTheChannelCrc : Prop :=
  (∀ v : Half, decode (BitVec.ofNat 32 (0x15000000 + v.toNat)) = .ok (.crcCmpc v)) ∧
  ∀ (v : Half) (s : State),
    exec (.crcCmpc v) s =
      .next { s with
        crcAcc := crc16 (chanBytes s)
        errFlag := s.errFlag || decide (crc16 (chanBytes s) ≠ v)
        out := .answered (resp32 (if crc16 (chanBytes s) = v then 0 else 1) 0 (crc16 (chanBytes s)).toNat) none }

/-- Rule R128. A missing terminator is answered before any compare, latches `err_flag` and leaves `crc_acc`. -/
def Obligations.CompareOfTheMessageCrc : Prop :=
  (∀ v : Half, decode (BitVec.ofNat 32 (0x16000000 + v.toNat)) = .ok (.crcCmpm v)) ∧
  (∀ (v : Half) (s : State), s.termScan = none →
    exec (.crcCmpm v) s = .next { s with errFlag := true, out := .answered 0x02000000 none }) ∧
  ∀ (v : Half) (s : State) (len : Nat), s.termScan = some len →
    exec (.crcCmpm v) s =
      .next { s with
        crcAcc := crc16 (bankBytes s len)
        errFlag := s.errFlag || decide (crc16 (bankBytes s len) ≠ v)
        out := .answered
          (resp32 (if crc16 (bankBytes s len) = v then 0 else 1) 0 (crc16 (bankBytes s len)).toNat) none }

/-- Rules R124 and R129. The value is the length, which fits in 16 bits because `MSG_SIZE ≤ 65536`. -/
def Obligations.MessageBankCheck : Prop :=
  decode 0x17000000 = .ok .msgChk ∧
  ∀ s : State, s.cfg.Valid →
    exec .msgChk s =
      .next { s with
        msgValid := decide (bankOk s)
        out := .answered (resp32 (if bankOk s then 0 else 2) (bankAux s) (s.termScan.getD 0)) none }

/-! ### Timing unit -/

/-- Rules R155, R156 and R162. -/
def Obligations.WaitAndMessageTimersAreLoaded : Prop :=
  (∀ v : Half, decode (BitVec.ofNat 32 (0x20000000 + v.toNat)) = .ok (.tmrLdw v)) ∧
  (∀ v : Half, decode (BitVec.ofNat 32 (0x21000000 + v.toNat)) = .ok (.tmrLdm v)) ∧
  decode 0x27000000 = .ok .tmrArmm ∧
  (∀ (v : Half) (s : State),
    exec (.tmrLdw v) s = .next { s with waitTimer := v, out := .answered (resp32 0 0 v.toNat) none }) ∧
  (∀ (v : Half) (s : State),
    exec (.tmrLdm v) s = .next { s with messageTimer := v, out := .answered (resp32 0 0 v.toNat) none }) ∧
  ∀ s : State,
    exec .tmrArmm s =
      .next { s with messageTimer := s.delayReload, out := .answered (resp32 0 0 s.delayReload.toNat) none }

/-- Rule R157; the load of 0 under the default of ZERO_ELEM_OK (rule R153). -/
def Obligations.ElementTimerIsLoadedWithItsReload : Prop :=
  (∀ v : Half, decode (BitVec.ofNat 32 (0x22000000 + v.toNat)) = .ok (.tmrLde v)) ∧
  ∀ (v : Half) (s : State), v ≠ 0 ∨ s.cfg.zeroElemOk = true →
    exec (.tmrLde v) s =
      .next { s with elemReload := v, elemTimer := v, out := .answered (resp32 0 0 v.toNat) none }

/-- spec/93_implementation_defined.md U3: where the argument ZERO_ELEM_OK is off, a load of the duration 0 is
refused, and only then (the model's choice of when TMR.INIT refuses: notes/assumptions/8.md). -/
def Obligations.ZeroDurationIsRefusedOnlyWhereSwitchedOff : Prop :=
  (∀ (v : Half) (s : State),
    exec (.tmrLde v) s = .refused .zeroElement ↔ v = 0 ∧ s.cfg.zeroElemOk = false) ∧
  ∀ s : State,
    exec .tmrInit s = .refused .zeroElement ↔
      s.termScan.isSome = true ∧ durNat s = 0 ∧ s.cfg.zeroElemOk = false

/-- Rules R158, R159 and R160. -/
def Obligations.TimersAreRead : Prop :=
  decode 0x23000000 = .ok .tmrRdw ∧ decode 0x24000000 = .ok .tmrRdm ∧ decode 0x25000000 = .ok .tmrRde ∧
  (∀ s : State, exec .tmrRdw s = .next { s with out := .answered (resp32 0 0 s.waitTimer.toNat) none }) ∧
  (∀ s : State, exec .tmrRdm s = .next { s with out := .answered (resp32 0 0 s.messageTimer.toNat) none }) ∧
  ∀ s : State, exec .tmrRde s = .next { s with out := .answered (resp32 0 0 s.elemTimer.toNat) none }

/-- Rule R161; a duration of 0 under the default of ZERO_ELEM_OK (rule R153). -/
def Obligations.TimingConfigurationIsLoadedFromTheBank : Prop :=
  decode 0x26000000 = .ok .tmrInit ∧
  (∀ s : State, ¬ bankOk s →
    exec .tmrInit s =
      .next { s with msgValid := false, out := .answered (resp32 2 (bankAux s) (durNat s)) none }) ∧
  ∀ s : State, bankOk s → durNat s ≠ 0 ∨ s.cfg.zeroElemOk = true →
    exec .tmrInit s =
      .next { s with
        msgValid := true
        elemReload := BitVec.ofNat 16 (durNat s)
        elemTimer := BitVec.ofNat 16 (durNat s)
        delayReload := BitVec.ofNat 16 (delayNat s)
        edgeFlag := false
        out := .answered (resp32 0 3 (durNat s)) none }

/-- Rule R163. -/
def Obligations.EdgeIsTakenOnce : Prop :=
  decode 0x28000000 = .ok .edgeTake ∧
  ∀ s : State,
    exec .edgeTake s = .next { s with edgeFlag := false, out := .answered (resp32 0 0 (bit s.edgeFlag)) none }

/-- Rule R150, with the default of MASK_PENDING_DEPTH; nothing is said of the output (notes/assumptions/5.md). The
argument's other value is in `Obligations.MaskedTicksBeyondTheFirstAreLost`. -/
def Obligations.TickEventIsDeliveredOrRemembered : Prop :=
  (∀ (s : State) (es : List Event), s.events = .tick :: es → s.tickMask = true → s.cfg.maskPendingDepth = 1 →
    ∃ o : Output, step s = .next { s with tickPending := true, events := es, out := o }) ∧
  ∀ (s : State) (es : List Event), s.events = .tick :: es → s.tickMask = false →
    ∃ o : Output, step s = .next { s.doTick with events := es, out := o }

/-- Rule R151, with Nat arithmetic: a counter at 0 stays, and the element timer that reaches 0 is reloaded on the
same tick. -/
def Obligations.DeliveredTickCountsDown : Prop :=
  ∀ s : State,
    s.doTick =
      { s with
        waitTimer := BitVec.ofNat 16 (s.waitTimer.toNat - 1)
        messageTimer := BitVec.ofNat 16 (s.messageTimer.toNat - 1)
        elemTimer := if s.elemTimer.toNat ≤ 1 then s.elemReload else BitVec.ofNat 16 (s.elemTimer.toNat - 1)
        edgeFlag := s.edgeFlag || decide (s.elemTimer.toNat ≤ 1) }

/-- Rule R152. From a timer loaded with `P ≥ 1`, `n` delivered ticks leave `P − n mod P` in it, the flag is set
once `P` ticks have been delivered, and a tick sets a cleared flag exactly if it is a `P`-th one. -/
def Obligations.ElementPeriodIsTheReloadValue : Prop :=
  ∀ (s : State) (n : Nat), s.tickMask = false → s.elemReload ≠ 0 → s.elemTimer = s.elemReload →
    s.edgeFlag = false → s.events = List.replicate n .tick →
    ∃ t : State, runSteps n s = .next t ∧
      t.elemTimer.toNat = s.elemReload.toNat - n % s.elemReload.toNat ∧
      t.edgeFlag = decide (s.elemReload.toNat ≤ n) ∧
      ∃ u : State, step { t with edgeFlag := false, events := [.tick] } = .next u ∧
        (u.edgeFlag = true ↔ s.elemReload.toNat ∣ n + 1)

/-- Rules R155 and R165: after TMR.LDW `d` and `n` delivered ticks, TMR.RDW answers `d − n`, or 0 from the `d`-th
tick on and at no earlier time. -/
def Obligations.WaitExpiresAfterItsTicks : Prop :=
  ∀ (s : State) (d : Half) (n : Nat), s.tickMask = false →
    s.events = .request (BitVec.ofNat 32 (0x20000000 + d.toNat)) ::
      (List.replicate n .tick ++ [.request 0x23000000]) →
    ∃ t : State, runSteps (n + 2) s = .next t ∧ t.out = .answered (resp32 0 0 (d.toNat - n)) none

/-- Rules R150 and R212: of any number of masked ticks exactly one is delivered, inside TICK.UNMASK. With
MASK_PENDING_DEPTH 0 (spec/93_implementation_defined.md U11) none is: that a masked tick then leaves every element as
it was, a set `tick_pending` too, is the model's reading (DEDUCED, notes/assumptions/16.md); `State.Inv` says that the
flag is clear there. -/
def Obligations.MaskedTicksBeyondTheFirstAreLost : Prop :=
  (∀ (s : State) (n : Nat) (es : List Event), s.tickMask = true → s.cfg.maskPendingDepth = 1 →
    s.events = List.replicate (n + 1) .tick ++ .request 0x02000000 :: es →
    (∃ o : Output, runSteps (n + 1) s =
      .next { s with tickPending := true, events := .request 0x02000000 :: es, out := o }) ∧
    runSteps (n + 2) s =
      .next { State.doTick { s with tickMask := false, tickPending := false } with
        events := es, out := .answered 0x00000001 none }) ∧
  (∀ (s : State) (n : Nat) (es : List Event), s.tickMask = true → s.cfg.maskPendingDepth = 0 →
    s.events = List.replicate (n + 1) .tick ++ es →
    ∃ o : Output, runSteps (n + 1) s = .next { s with events := es, out := o }) ∧
  ∀ (s : State) (n : Nat) (es : List Event), s.tickMask = true → s.cfg.maskPendingDepth = 0 →
    s.tickPending = false → s.events = List.replicate (n + 1) .tick ++ .request 0x02000000 :: es →
    runSteps (n + 2) s = .next { s with tickMask := false, events := es, out := .answered 0x00000000 none }

/-- Rule R235: where the tick would set the flag, EDGE.TAKE before it answers 0 and the next one 1, EDGE.TAKE
after it answers 1; a further one answers 0. -/
def Obligations.EdgeIsSeenOnceInEitherOrder : Prop :=
  ∀ s : State, s.tickMask = false → s.elemTimer.toNat ≤ 1 → s.edgeFlag = false →
    (s.events = [.tick, .request 0x28000000, .request 0x28000000] →
      ∃ t u : State, runSteps 2 s = .next t ∧ t.out = .answered 0x00000001 none ∧
        runSteps 3 s = .next u ∧ u.out = .answered 0x00000000 none) ∧
    (s.events = [.request 0x28000000, .tick, .request 0x28000000, .request 0x28000000] →
      ∃ t u v : State, runSteps 1 s = .next t ∧ t.out = .answered 0x00000000 none ∧
        runSteps 3 s = .next u ∧ u.out = .answered 0x00000001 none ∧
        runSteps 4 s = .next v ∧ v.out = .answered 0x00000000 none)

/-! ### The CRC function -/

/-- Rules R120 and R121. -/
def Obligations.CrcStepIsTheSpecifiedAlgorithm : Prop :=
  (∀ (c : Half) (b : Byte), ∃ t : Nat → Half,
    t 0 = c ^^^ BitVec.ofNat 16 (b.toNat * 256) ∧
    (∀ i, i < 8 → t (i + 1) =
      if (t i).getLsbD 15 then BitVec.ofNat 16 ((t i).toNat * 2) ^^^ 0x1021 else BitVec.ofNat 16 ((t i).toNat * 2)) ∧
    crcStep c b = t 8) ∧
  crc16 [] = 0x0000 ∧
  ∀ (bytes : List Byte) (b : Byte), crc16 (bytes ++ [b]) = crcStep (crc16 bytes) b

/-- Rule R133: the byte-at-a-time requests give the CRC of the bytes, whatever the accumulator held, and the
region operations give the same number over the same bytes. -/
def Obligations.BytewiseCrcEqualsRegionCrc : Prop :=
  ∀ (s : State) (bytes : List Byte),
    s.events = .request 0x10000000 ::
      (bytes.map (fun b => Event.request (BitVec.ofNat 32 (0x11000000 + b.toNat * 2 ^ 16))) ++
        [.request 0x12000000]) →
    ∃ t : State, runSteps (bytes.length + 2) s = .next t ∧
      t.out = .answered (resp32 0 0 (crc16 bytes).toNat) none ∧ t.crcAcc = crc16 bytes ∧
      (bytes = chanBytes s → ∃ u : State, exec .crcChan s = .next u ∧ u.out = t.out ∧ u.crcAcc = t.crcAcc) ∧
      (∀ len, s.termScan = some len → bytes = bankBytes s len →
        ∃ u : State, exec .crcMsg s = .next u ∧ u.out = t.out ∧ u.crcAcc = t.crcAcc)

/-- Rule R122 (d), (e) and (f). -/
def Obligations.CrcIsLinearWithZeroResidue : Prop :=
  (∀ (c1 c2 : Half) (b1 b2 : Byte), crcStep (c1 ^^^ c2) (b1 ^^^ b2) = crcStep c1 b1 ^^^ crcStep c2 b2) ∧
  (∀ x y : List Byte, x.length = y.length →
    crc16 (List.zipWith (fun p q => p ^^^ q) x y) = crc16 x ^^^ crc16 y) ∧
  (∀ (n : Nat) (x : List Byte), crc16 (List.replicate n 0x00 ++ x) = crc16 x) ∧
  ∀ x : List Byte,
    crc16 (x ++ [BitVec.ofNat 8 ((crc16 x).toNat / 256), BitVec.ofNat 8 ((crc16 x).toNat % 256)]) = 0x0000

/-- Rule R122 (c). -/
def Obligations.CrcDetectsEverySingleBitError : Prop :=
  ∀ (before after : List Byte) (b : Byte) (i : Nat), i < 8 →
    crc16 (before ++ (b ^^^ BitVec.ofNat 8 (2 ^ i)) :: after) ≠ crc16 (before ++ b :: after)

/-- Rule R123: the scan finds the first pair at an offset from 14 to `MSG_USABLE − 2`, and nothing else. -/
def Obligations.TerminatorScanFindsTheFirstPair : Prop :=
  (Config.default.esc = 0x18 ∧ ∀ b : Byte, b ∈ Config.default.eomCodes ↔ b.toNat / 16 = 15) ∧
  ∀ s : State,
    (∀ len : Nat, s.termScan = some len ↔
      16 ≤ len ∧ len ≤ s.cfg.msgSize - 2 ∧
      (s.msgByte (len - 2) = s.cfg.esc ∧ s.msgByte (len - 1) ∈ s.cfg.eomCodes) ∧
      ∀ j, 14 ≤ j → j < len - 2 → ¬ (s.msgByte j = s.cfg.esc ∧ s.msgByte (j + 1) ∈ s.cfg.eomCodes)) ∧
    (s.termScan = none ↔
      ∀ j, 14 ≤ j → j + 2 ≤ s.cfg.msgSize - 2 →
        ¬ (s.msgByte j = s.cfg.esc ∧ s.msgByte (j + 1) ∈ s.cfg.eomCodes))

/-! ### Selection unit -/

/-- Rules R64 and R65. -/
def Obligations.ChannelRegisterIsItsFourBytes : Prop :=
  Config.default.regByteOrder = .big ∧
  ∀ (s : State) (c r : Nat),
    (s.cfg.regByteOrder = .big → (s.chanReg c r).toNat =
      (s.store.read (s.cfg.nvmBase + 24 * c + 4 * r)).toNat * 2 ^ 24 +
      (s.store.read (s.cfg.nvmBase + 24 * c + 4 * r + 1)).toNat * 2 ^ 16 +
      (s.store.read (s.cfg.nvmBase + 24 * c + 4 * r + 2)).toNat * 2 ^ 8 +
      (s.store.read (s.cfg.nvmBase + 24 * c + 4 * r + 3)).toNat) ∧
    (s.cfg.regByteOrder = .little → (s.chanReg c r).toNat =
      (s.store.read (s.cfg.nvmBase + 24 * c + 4 * r + 3)).toNat * 2 ^ 24 +
      (s.store.read (s.cfg.nvmBase + 24 * c + 4 * r + 2)).toNat * 2 ^ 16 +
      (s.store.read (s.cfg.nvmBase + 24 * c + 4 * r + 1)).toNat * 2 ^ 8 +
      (s.store.read (s.cfg.nvmBase + 24 * c + 4 * r)).toNat) ∧
    (s.chanReg c r = 0xFFFFFFFF ↔ ∀ k, k < 4 → s.store.read (s.cfg.nvmBase + 24 * c + 4 * r + k) = 0xFF)

/-- Rules R181 and R182. The fallback is one level: channel 0 is returned even where it is empty itself. -/
def Obligations.SelectFallsBackOneLevel : Prop :=
  ∀ (s : State) (i : Nat), 0 < s.cfg.channels →
    let c := i % s.cfg.channels
    c < s.cfg.channels ∧
    s.select i = s.select c ∧
    (s.chanReg c 5 = 0xFFFFFFFF →
      s.select i =
        { record :=
            { r0 := s.chanReg 0 0, r1 := s.chanReg 0 1, r2 := s.chanReg 0 2, r3 := s.chanReg 0 3,
              r4 := s.chanReg 0 4, r5 := s.chanReg 0 5 }
          asked := c, returned := 0, fallback := true, stillEmpty := decide (s.chanReg 0 5 = 0xFFFFFFFF) }) ∧
    (s.chanReg c 5 ≠ 0xFFFFFFFF →
      s.select i =
        { record :=
            { r0 := s.chanReg c 0, r1 := s.chanReg c 1, r2 := s.chanReg c 2, r3 := s.chanReg c 3,
              r4 := s.chanReg c 4, r5 := s.chanReg c 5 }
          asked := c, returned := c, fallback := false, stillEmpty := false })

/-- Rules R181, R184 and R185. -/
def Obligations.SelectByIndex : Prop :=
  (∀ a : Byte, decode (BitVec.ofNat 32 (0x30000000 + a.toNat * 2 ^ 16)) = .ok (.selIdx a)) ∧
  ∀ (a : Byte) (s : State), exec (.selIdx a) s = .next { s with out := selReply s a.toNat }

/-- Rules R180 and R186. -/
def Obligations.SelectTheActiveChannel : Prop :=
  decode 0x31000000 = .ok .selAct ∧
  ∀ s : State,
    exec .selAct s =
      .next { s with reloadReq := false, out := selReply s ((s.chBase.toNat + s.chDelta.toNat) % 16) }

/-- Rule R187. -/
def Obligations.SelectTheNextChannel : Prop :=
  decode 0x32000000 = .ok .selNext ∧
  ∀ s : State,
    exec .selNext s = .next { s with out := selReply s ((s.chBase.toNat + s.chDelta.toNat + 1) % 16) }

/-- Rules R190 and R195. -/
def Obligations.ChannelIsLatchedAndRead : Prop :=
  decode 0x33000000 = .ok .chLatch ∧ decode 0x35000000 = .ok .chRd ∧
  (∀ s : State,
    exec .chLatch s =
      .next { s with
        chBase := s.chPins
        reloadReq := true
        out := .answered (resp32 0 0 (chrdNat s.chPins s.chDelta true)) none }) ∧
  ∀ s : State,
    exec .chRd s = .next { s with out := .answered (resp32 0 0 (chrdNat s.chBase s.chDelta s.reloadReq)) none }

/-- Rule R192 for the elements. That the command has a response
of its own, the one of the CH.CMD that carries it (rule R191), is the model's reading (DEDUCED,
notes/assumptions/13.md). -/
def Obligations.ChannelSetReplacesTheBase : Prop :=
  ∀ (k : Nibble) (s : State),
    encode (.channelSet k) = .cmd8 (BitVec.ofNat 8 (0xC0 + k.toNat)) ∧
    requestWord (.channelSet k) = BitVec.ofNat 32 (0x34C00000 + k.toNat * 2 ^ 16) ∧
    exec (.channelSet k) s =
      .next { s with
        chBase := k, chDelta := 0, reloadReq := true
        out := .answered (resp32 0 3 (chrdNat k 0 true)) none }

/-- Rule R193 for the elements. That the command has a response
of its own, the one of the CH.CMD that carries it (rule R191), is the model's reading (DEDUCED,
notes/assumptions/13.md). -/
def Obligations.ChannelAddMovesTheDelta : Prop :=
  ∀ (k : Nibble) (s : State),
    encode (.channelAdd k) = .cmd8 (BitVec.ofNat 8 (0xB0 + k.toNat)) ∧
    requestWord (.channelAdd k) = BitVec.ofNat 32 (0x34B00000 + k.toNat * 2 ^ 16) ∧
    exec (.channelAdd k) s =
      .next { s with
        chDelta := BitVec.ofNat 4 ((s.chDelta.toNat + k.toNat) % 16), reloadReq := true
        out := .answered
          (resp32 0 3 (chrdNat s.chBase (BitVec.ofNat 4 ((s.chDelta.toNat + k.toNat) % 16)) true)) none }

/-- Rule R194 for the elements. The compare is of unsigned 4-bit values, and equality does not clear.
That the command has a response of its own, the one of the CH.CMD that carries it (rule R191), is the model's
reading (DEDUCED, notes/assumptions/13.md). -/
def Obligations.ChannelClearIfGreaterClearsTheDelta : Prop :=
  ∀ (k : Nibble) (s : State),
    encode (.channelClearIfGt k) = .cmd8 (BitVec.ofNat 8 (0x90 + k.toNat)) ∧
    requestWord (.channelClearIfGt k) = BitVec.ofNat 32 (0x34900000 + k.toNat * 2 ^ 16) ∧
    exec (.channelClearIfGt k) s =
      .next (if k.toNat < s.chDelta.toNat then
        { s with
          chDelta := 0, reloadReq := true
          out := .answered (resp32 0 3 (chrdNat s.chBase 0 true)) none }
      else { s with out := .answered (resp32 0 1 (chrdNat s.chBase s.chDelta s.reloadReq)) none })

/-- Rule R196, which speaks of the CH.CMD (second clause). That an instruction of the command table has a response
of its own, the one of the CH.CMD that carries it (rule R191), is the model's reading (DEDUCED,
notes/assumptions/13.md). -/
def Obligations.CommandsWithoutEffect : Prop :=
  (∀ (i : Instr) (s : State),
    (∃ code k : Nibble, i = .endOfMessage k ∨ i = .ioIncrement k ∨ i = .ioDecrement k ∨ i = .ioSet k ∨
      i = .unrecognized07 code k ∨ i = .unrecognized8 k) →
    exec i s = .next { s with out := .answered (resp32 0 0 (chrdNat s.chBase s.chDelta s.reloadReq)) none }) ∧
  ∀ (m : Byte) (s : State), m.toNat / 16 ∉ [0xC, 0xB, 0x9] →
    exec (.chCmd m) s =
      .next { s with out := .answered (resp32 0 0 (chrdNat s.chBase s.chDelta s.reloadReq)) none }

/-- Rule R191: CH.CMD carries out the command that its byte encodes, and never answers an error. -/
def Obligations.ChannelCommandCarriesOutItsByte : Prop :=
  (∀ m : Byte, decode (BitVec.ofNat 32 (0x34000000 + m.toNat * 2 ^ 16)) = .ok (.chCmd m)) ∧
  ∀ (m : Byte) (s : State),
    exec (.chCmd m) s = exec (decodeCmd8 m) s ∧
    ∃ t : State, exec (.chCmd m) s = .next t ∧ t.reloadReq = (s.reloadReq ||
        decide (m.toNat / 16 = 0xC ∨ m.toNat / 16 = 0xB ∨ m.toNat / 16 = 0x9 ∧ m.toNat % 16 < s.chDelta.toNat)) ∧
      t.out = .answered (resp32 0
        (bit (decide (m.toNat / 16 = 0xC ∨ m.toNat / 16 = 0xB ∨ m.toNat / 16 = 0x9)) +
          2 * bit (decide (m.toNat / 16 = 0xC ∨ m.toNat / 16 = 0xB ∨
            m.toNat / 16 = 0x9 ∧ m.toNat % 16 < s.chDelta.toNat)))
        (chrdNat t.chBase t.chDelta t.reloadReq)) none ∧
      t = { s with chBase := t.chBase, chDelta := t.chDelta, reloadReq := t.reloadReq, out := t.out }

/-! ### Encodings and requests -/

/-- The words of rule R101's table, and command bytes of rule R96's. -/
def Obligations.SampleWordsDecode : Prop :=
  decode 0x00000000 = .ok .nop ∧ decode 0x11310000 = .ok (.crcByte 0x31) ∧
  decode 0x15005A54 = .ok (.crcCmpc 0x5A54) ∧ decode 0x20000005 = .ok (.tmrLdw 5) ∧
  decode 0x2200000A = .ok (.tmrLde 10) ∧ decode 0x28000000 = .ok .edgeTake ∧
  decode 0x30070000 = .ok (.selIdx 7) ∧ decode 0x34B20000 = .ok (.chCmd 0xB2) ∧
  decodeCmd8 0xFF = .endOfMessage 0xF ∧ decodeCmd8 0xC9 = .channelSet 9 ∧ decodeCmd8 0x18 = .unrecognized07 1 8

/-- Rule R96: each command byte falls in exactly the row of its high nibble. -/
def Obligations.EveryCommandByteHasItsRow : Prop :=
  ∀ b : Byte,
    let k : Nibble := BitVec.ofNat 4 (b.toNat % 16)
    (decodeCmd8 b = .endOfMessage k ↔ b.toNat / 16 = 15) ∧
    (decodeCmd8 b = .ioIncrement k ↔ b.toNat / 16 = 14) ∧
    (decodeCmd8 b = .ioDecrement k ↔ b.toNat / 16 = 13) ∧
    (decodeCmd8 b = .channelSet k ↔ b.toNat / 16 = 12) ∧
    (decodeCmd8 b = .channelAdd k ↔ b.toNat / 16 = 11) ∧
    (decodeCmd8 b = .ioSet k ↔ b.toNat / 16 = 10) ∧
    (decodeCmd8 b = .channelClearIfGt k ↔ b.toNat / 16 = 9) ∧
    (decodeCmd8 b = .unrecognized8 k ↔ b.toNat / 16 = 8) ∧
    (decodeCmd8 b = .unrecognized07 (BitVec.ofNat 4 (b.toNat / 16)) k ↔ b.toNat / 16 ≤ 7)

/-- Decoding the encoding of a well-formed instruction gives it back. -/
def Obligations.DecodeOfEncodeIsTheInstruction : Prop :=
  ∀ i : Instr, i.wellFormed = true → decodeEncoded (encode i) = .ok i

/-- Whatever decodes is the encoding of a well-formed instruction: each word has one meaning. -/
def Obligations.EncodeOfDecodeIsTheWord : Prop :=
  ∀ (e : Encoded) (i : Instr), decodeEncoded e = .ok i → i.wellFormed = true ∧ encode i = e

/-- Rule R98: which words are rejected, and what a rejected word does. -/
def Obligations.RejectedWordsAnswerInvalidOp : Prop :=
  ∀ w : Word,
    let op := w.toNat / 2 ^ 24
    let a := w.toNat / 2 ^ 16 % 256
    let v := w.toNat % 2 ^ 16
    let usesA := [0x11, 0x30, 0x34]
    let usesV := [0x15, 0x16, 0x20, 0x21, 0x22]
    let usesNone := [0x00, 0x01, 0x02, 0x03, 0x04, 0x05, 0x10, 0x12, 0x13, 0x14, 0x17, 0x23, 0x24, 0x25, 0x26,
      0x27, 0x28, 0x31, 0x32, 0x33, 0x35]
    ((∃ err : DecodeError, decode w = .error err) ↔
      ¬ (op ∈ usesA ∨ op ∈ usesV ∨ op ∈ usesNone) ∨ (op ∉ usesA ∧ a ≠ 0) ∨ (op ∉ usesV ∧ v ≠ 0)) ∧
    ∀ (s : State) (es : List Event) (err : DecodeError), s.events = .request w :: es → decode w = .error err →
      step s = .next { s with events := es, out := .answered 0x03000000 none }

/-- Rule R90: a step whose next event is a request carries out the instruction the word decodes to; and every
well-formed instruction has a request word that carries it out (a CMD8 command's is its CH.CMD). That a request waits
in a list of events is the model's choice (notes/assumptions/4.md). -/
def Obligations.StepCarriesOutTheRequest : Prop :=
  (∀ (s : State) (w : Word) (es : List Event) (i : Instr), s.events = .request w :: es → decode w = .ok i →
    step s = exec i { s with events := es }) ∧
  ∀ (s : State) (i : Instr), i.wellFormed = true → step (s.pushEvent (.request (requestWord i))) = exec i s

/-! ### The whole machine -/

/-- Rule R260, and of rule R261 that no store byte changes and the pins are not sampled; nothing is said of the
output (notes/assumptions/5.md) or of a channel programming under way (notes/assumptions/6.md). After reset STAT.RD answers 0x00D8 and CH.RD 0x1000. `State.reset` holds the same
values. -/
def Obligations.ResetPutsEveryElementAtItsValue : Prop :=
  (∀ (s : State) (es : List Event), s.events = .reset :: es →
    ∃ (o : Output) (p : Option ProgramRun), step s = .next { s with
      crcAcc := 0x0000, errFlag := false, msgValid := false, waitTimer := 0x0000, messageTimer := 0x0000
      elemTimer := 0x0000, elemReload := 0x0000, delayReload := 0x0000, edgeFlag := false, tickMask := true
      tickPending := false, chBase := 0x0, chDelta := 0x0, reloadReq := true, programming := p
      events := es, out := o }) ∧
  SameBlock State.reset State.reset.resetBlock ∧
  ∀ s : State, s.events = [.reset, .request 0x05000000, .request 0x35000000] →
    ∃ t u : State, runSteps 2 s = .next t ∧ t.out = .answered 0x000000D8 none ∧
      runSteps 3 s = .next u ∧ u.out = .answered 0x00001000 none

/-- The invariant holds right after reset. The instance, the store's contents and the empty list of events there are
the model's choice (notes/assumptions/1.md, 3.md and 4.md). -/
def Obligations.InvariantHoldsAtReset : Prop := State.reset.Inv

/-- Every step of the machine keeps the invariant: a request, a tick, a reset or an environment action, in any
order. That a programming under way is part of the state is the model's choice (notes/assumptions/6.md). -/
def Obligations.EveryStepKeepsTheInvariant : Prop :=
  ∀ s t : State, s.Inv → step s = .next t → t.Inv

/-- Rules R60, R21 and R86: only the environment's actions write the store and the pins, and they change no element
of the block; nothing changes the parameters. That a channel programming under way is part of the state, and that
every step but an environment action leaves it, a reset among them, is the model's choice (DESIGN CHOICE,
notes/assumptions/6.md). -/
def Obligations.OnlyTheEnvironmentWritesTheStore : Prop :=
  ∀ s t : State, step s = .next t →
    t.cfg = s.cfg ∧
    ((∀ act : EnvAction, ¬ s.nextIs (.env act)) →
      t.store = s.store ∧ t.chPins = s.chPins ∧ t.programming = s.programming) ∧
    ((∃ act : EnvAction, s.nextIs (.env act)) → SameBlock s t)

/-- Rule R20's column "written by" (TICK.UNMASK can deliver a tick, rule R212): an element that a step changes is
changed by one of its writers or by the reset. -/
def Obligations.ElementsAreWrittenOnlyByTheirWriters : Prop :=
  ∀ s t : State, step s = .next t → ¬ s.nextIs .reset →
    (t.crcAcc ≠ s.crcAcc → s.nextInstr = some .crcClr ∨ (∃ a, s.nextInstr = some (.crcByte a)) ∨
      s.nextInstr = some .crcChan ∨ s.nextInstr = some .crcMsg ∨ (∃ v, s.nextInstr = some (.crcCmpc v)) ∨
      ∃ v, s.nextInstr = some (.crcCmpm v)) ∧
    (t.errFlag ≠ s.errFlag → s.nextInstr = some .errClr ∨ (∃ v, s.nextInstr = some (.crcCmpc v)) ∨
      ∃ v, s.nextInstr = some (.crcCmpm v)) ∧
    (t.msgValid ≠ s.msgValid → s.nextInstr = some .msgChk ∨ s.nextInstr = some .tmrInit) ∧
    (t.waitTimer ≠ s.waitTimer →
      (∃ v, s.nextInstr = some (.tmrLdw v)) ∨ s.nextIs .tick ∨ s.nextInstr = some .tickUnmask) ∧
    (t.messageTimer ≠ s.messageTimer → (∃ v, s.nextInstr = some (.tmrLdm v)) ∨ s.nextInstr = some .tmrArmm ∨
      s.nextIs .tick ∨ s.nextInstr = some .tickUnmask) ∧
    (t.elemTimer ≠ s.elemTimer → (∃ v, s.nextInstr = some (.tmrLde v)) ∨ s.nextInstr = some .tmrInit ∨
      s.nextIs .tick ∨ s.nextInstr = some .tickUnmask) ∧
    (t.elemReload ≠ s.elemReload → (∃ v, s.nextInstr = some (.tmrLde v)) ∨ s.nextInstr = some .tmrInit) ∧
    (t.delayReload ≠ s.delayReload → s.nextInstr = some .tmrInit) ∧
    (t.edgeFlag ≠ s.edgeFlag → s.nextIs .tick ∨ s.nextInstr = some .tickUnmask ∨ s.nextInstr = some .edgeTake ∨
      s.nextInstr = some .tmrInit) ∧
    (t.tickMask ≠ s.tickMask → s.nextInstr = some .tickMask ∨ s.nextInstr = some .tickUnmask) ∧
    (t.tickPending ≠ s.tickPending → s.nextIs .tick ∨ s.nextInstr = some .tickUnmask) ∧
    (t.chBase ≠ s.chBase → s.nextInstr = some .chLatch ∨
      ∃ m : Byte, s.nextInstr = some (.chCmd m) ∧ m.toNat / 16 = 0xC) ∧
    (t.chDelta ≠ s.chDelta →
      ∃ m : Byte, s.nextInstr = some (.chCmd m) ∧ (m.toNat / 16 = 0xC ∨ m.toNat / 16 = 0xB ∨ m.toNat / 16 = 0x9)) ∧
    (t.reloadReq ≠ s.reloadReq → s.nextInstr = some .chLatch ∨ s.nextInstr = some .selAct ∨
      ∃ m : Byte, s.nextInstr = some (.chCmd m) ∧ (m.toNat / 16 = 0xC ∨ m.toNat / 16 = 0xB ∨ m.toNat / 16 = 0x9))

/-- Rule R27: `err_flag` is set by a compare that does not answer OK and by nothing else, cleared by ERR.CLR
and by reset and by nothing else, and gates nothing. -/
def Obligations.ErrorFlagIsLatched : Prop :=
  State.reset.errFlag = false ∧
  (∀ (i : Instr) (s t : State), i ≠ .errRd → i ≠ .errClr → i ≠ .statRd → exec i s = .next t →
    exec i { s with errFlag := true } = .next { t with errFlag := true }) ∧
  ∀ s t : State, step s = .next t →
    (s.errFlag = false → (t.errFlag = true ↔
      ((∃ v, s.nextInstr = some (.crcCmpc v)) ∨ ∃ v, s.nextInstr = some (.crcCmpm v)) ∧
        ∃ w : Word, t.out = .answered w none ∧ 2 ^ 24 ≤ w.toNat)) ∧
    (s.errFlag = true → (t.errFlag = false ↔ s.nextInstr = some .errClr ∨ s.nextIs .reset))

/-- Rule R35: `msg_valid` is the verdict of the last MSG.CHK or TMR.INIT since the reset, and gates nothing. -/
def Obligations.MessageVerdictIsKept : Prop :=
  State.reset.msgValid = false ∧
  (∀ s t : State, step s = .next t →
    ((s.nextInstr = some .msgChk ∨ s.nextInstr = some .tmrInit) → t.msgValid = decide (bankOk s)) ∧
    (s.nextInstr ≠ some .msgChk → s.nextInstr ≠ some .tmrInit → ¬ s.nextIs .reset → t.msgValid = s.msgValid)) ∧
  ∀ (i : Instr) (s t : State) (b : Bool), i ≠ .statRd → exec i s = .next t →
    exec i { s with msgValid := b } = .next (if i = .msgChk ∨ i = .tmrInit then t else { t with msgValid := b })

/-- Rules R63 and R74: what an instruction does depends on no byte of the store outside the channel region and
the usable part of the message region; so the two reserved bytes, and everything outside the regions, are never
read. -/
def Obligations.ReservedBytesAreNeverRead : Prop :=
  ∀ (i : Instr) (s t : State) (m : Memory), s.cfg.Valid →
    (∀ a : Nat, blockReads s.cfg a → m.read a = s.store.read a) →
    exec i s = .next t → exec i { s with store := m } = .next { t with store := m }

/-- Rule R262, on a bank that passes the test and with the element duration accepted: the four requests of the
boot sequence. A tick that arrived under the mask (rule R150) is delivered by the last of them (rule R212), after the
timers are loaded. -/
def Obligations.BootSequenceConfiguresTheBlock : Prop :=
  ∀ (s : State) (es : List Event), bankOk s → durNat s ≠ 0 ∨ s.cfg.zeroElemOk = true →
    s.events = .request 0x33000000 :: .request 0x26000000 :: .request 0x31000000 :: .request 0x02000000 :: es →
    (∃ t : State, runSteps 3 s = .next t ∧ t.out = selReply s ((s.chPins.toNat + s.chDelta.toNat) % 16)) ∧
    (s.tickPending = false → runSteps 4 s =
      .next { s with
        chBase := s.chPins
        msgValid := true
        elemReload := BitVec.ofNat 16 (durNat s)
        elemTimer := BitVec.ofNat 16 (durNat s)
        delayReload := BitVec.ofNat 16 (delayNat s)
        edgeFlag := false
        reloadReq := false
        tickMask := false
        events := es
        out := .answered 0x00000000 none }) ∧
    (s.tickPending = true → runSteps 4 s =
      .next { s with
        chBase := s.chPins
        msgValid := true
        waitTimer := BitVec.ofNat 16 (s.waitTimer.toNat - 1)
        messageTimer := BitVec.ofNat 16 (s.messageTimer.toNat - 1)
        elemReload := BitVec.ofNat 16 (durNat s)
        elemTimer := BitVec.ofNat 16 (if durNat s ≤ 1 then durNat s else durNat s - 1)
        delayReload := BitVec.ofNat 16 (delayNat s)
        edgeFlag := decide (durNat s ≤ 1)
        reloadReq := false
        tickMask := false
        tickPending := false
        events := es
        out := .answered 0x00000001 none })

/-! ### The environment's actions -/

/-- Rules R80 and R85: after ENV.PROGRAM_CHANNEL and its 24 byte writes onto an erased record the channel holds
the bytes, and its registers the values they encode; no other byte of the store and no element of the block changes.
That the action is one checked start and one step per byte is the model's choice (DESIGN CHOICE,
notes/assumptions/6.md). -/
def Obligations.ProgrammedChannelReadsBack : Prop :=
  ∀ (s : State) (c : Nat) (bytes : List Byte) (es : List Event),
    s.tickMask = true → s.store.wf → c < s.cfg.channels → bytes.length = 24 →
    (∀ k, k < 24 → s.chanByte c k = 0xFF) →
    s.events = .env (.programChannel c bytes) :: (List.replicate 24 (.env .programStep) ++ es) →
    ∃ t : State, runSteps 25 s = .next t ∧
      (∀ k, k < 24 → bytes[k]? = some (t.chanByte c k)) ∧
      (s.cfg.regByteOrder = .big → ∀ (r : Nat) (b0 b1 b2 b3 : Byte), r < 6 →
        bytes[4 * r]? = some b0 → bytes[4 * r + 1]? = some b1 → bytes[4 * r + 2]? = some b2 →
        bytes[4 * r + 3]? = some b3 → t.chanReg c r = b0 ++ b1 ++ b2 ++ b3) ∧
      (s.cfg.regByteOrder = .little → ∀ (r : Nat) (b0 b1 b2 b3 : Byte), r < 6 →
        bytes[4 * r]? = some b0 → bytes[4 * r + 1]? = some b1 → bytes[4 * r + 2]? = some b2 →
        bytes[4 * r + 3]? = some b3 → t.chanReg c r = b3 ++ b2 ++ b1 ++ b0) ∧
      (∀ a : Nat, a < s.cfg.nvmBase + 24 * c ∨ s.cfg.nvmBase + 24 * c + 24 ≤ a →
        t.store.read a = s.store.read a) ∧
      t = { s with store := t.store, programming := none, events := es, out := t.out }

/-- Rules R80 and R83: what is rejected writes nothing, whatever the store holds. That a rejection is a next state
with a report, that one for which no error kind is named is reported without one, and that ENV.WRITE_CH_BYTE past the
last channel is rejected, is the model's reading (DEDUCED, notes/assumptions/7.md). -/
def Obligations.RejectedStoreActionsWriteNothing : Prop :=
  (∀ (s : State) (es : List Event) (c : Nat) (bytes : List Byte), s.tickMask = true →
    s.events = .env (.programChannel c bytes) :: es → s.cfg.channels ≤ c →
    step s = .next { s with events := es, out := .reported (.rejected .invalidChannelIndex) }) ∧
  (∀ (s : State) (es : List Event) (c : Nat) (bytes : List Byte), s.tickMask = true →
    s.events = .env (.programChannel c bytes) :: es → c < s.cfg.channels → bytes.length ≠ 24 →
    step s = .next { s with events := es, out := .reported (.rejected .storeWriteTruncated) }) ∧
  (∀ (s : State) (es : List Event) (c : Nat) (k : Fin 24) (b : Byte), s.tickMask = true →
    s.events = .env (.writeChByte c k b) :: es → s.cfg.channels ≤ c →
    step s = .next { s with events := es, out := .reported .rejectedIndex }) ∧
  ∀ (s : State) (es : List Event) (k : Half) (b : Byte), s.tickMask = true →
    s.events = .env (.writeMsgByte k b) :: es → s.cfg.msgSize - 2 ≤ k.toNat →
    step s = .next { s with events := es, out := .reported .rejectedIndex }

/-- Rules R80, R83 and R84 (b): a byte write, a byte of an ENV.PROGRAM_CHANNEL under way among them, lands on an
erased byte or where STORE_OVERWRITE is set, changes that byte only, and is refused otherwise; a message index past
the usable part writes nothing. The model's readings are: that such an index answers a next state (DEDUCED,
notes/assumptions/7.md), that the rule of R84 (b) holds for every byte write alike (DEDUCED, notes/assumptions/9.md),
and how the bytes still to be written are held (DESIGN CHOICE, notes/assumptions/6.md). -/
def Obligations.StoreByteIsWrittenWhereErased : Prop :=
  (∀ (s : State) (es : List Event) (k : Half) (b : Byte), s.tickMask = true → s.store.wf →
    s.events = .env (.writeMsgByte k b) :: es →
    (k.toNat < s.cfg.msgSize - 2 → s.msgByte k.toNat = 0xFF ∨ s.cfg.storeOverwrite = true →
      ∃ t : State, step s = .next t ∧
        (∀ a : Nat, t.store.read a =
          if a = s.cfg.nvmBase + 24 * s.cfg.channels + k.toNat then b else s.store.read a) ∧
        t = { s with store := t.store, events := es, out := t.out }) ∧
    (k.toNat < s.cfg.msgSize - 2 → s.msgByte k.toNat ≠ 0xFF → s.cfg.storeOverwrite = false →
      step s = .refused (.byteNotErased (s.cfg.nvmBase + 24 * s.cfg.channels + k.toNat))) ∧
    (s.cfg.msgSize - 2 ≤ k.toNat → ∃ o : Output, step s = .next { s with events := es, out := o })) ∧
  (∀ (s : State) (es : List Event) (c : Nat) (k : Fin 24) (b : Byte), s.tickMask = true → s.store.wf →
    s.events = .env (.writeChByte c k b) :: es → c < s.cfg.channels →
    (s.chanByte c k = 0xFF ∨ s.cfg.storeOverwrite = true →
      ∃ t : State, step s = .next t ∧
        (∀ a : Nat, t.store.read a = if a = s.cfg.nvmBase + 24 * c + k then b else s.store.read a) ∧
        t = { s with store := t.store, events := es, out := t.out }) ∧
    (s.chanByte c k ≠ 0xFF → s.cfg.storeOverwrite = false →
      step s = .refused (.byteNotErased (s.cfg.nvmBase + 24 * c + k)))) ∧
  ∀ (s : State) (es : List Event) (c k : Nat) (b : Byte) (bs : List Byte), s.tickMask = true → s.store.wf →
    s.events = .env .programStep :: es →
    s.programming = some { channel := c, offset := k, rest := b :: bs } →
    (s.chanByte c k = 0xFF ∨ s.cfg.storeOverwrite = true →
      ∃ t : State, step s = .next t ∧
        (∀ a : Nat, t.store.read a = if a = s.cfg.nvmBase + 24 * c + k then b else s.store.read a) ∧
        t = { s with
          store := t.store
          programming := if bs = [] then none else some { channel := c, offset := k + 1, rest := bs }
          events := es, out := t.out }) ∧
    (s.chanByte c k ≠ 0xFF → s.cfg.storeOverwrite = false →
      step s = .refused (.byteNotErased (s.cfg.nvmBase + 24 * c + k)))

/-- Rules R81 and R82: each erase makes every byte of its own range read 0xFF and leaves every other byte. -/
def Obligations.EraseTouchesItsOwnRegionOnly : Prop :=
  (∀ (s : State) (es : List Event), s.tickMask = true → s.events = .env .eraseChannels :: es →
    ∃ t : State, step s = .next t ∧
      (∀ a : Nat, t.store.read a =
        if s.cfg.nvmBase ≤ a ∧ a < s.cfg.nvmBase + 24 * s.cfg.channels then 0xFF else s.store.read a) ∧
      t = { s with store := t.store, events := es, out := t.out }) ∧
  ∀ (s : State) (es : List Event), s.tickMask = true → s.events = .env .eraseMessage :: es →
    ∃ t : State, step s = .next t ∧
      (∀ a : Nat, t.store.read a =
        if s.cfg.nvmBase + 24 * s.cfg.channels ≤ a ∧
            a < s.cfg.nvmBase + 24 * s.cfg.channels + (s.cfg.msgSize - 2) then 0xFF
        else s.store.read a) ∧
      t = { s with store := t.store, events := es, out := t.out }

/-- Rule R84 (a): with ticks unmasked every store action is refused, the next byte write of an ENV.PROGRAM_CHANNEL
under way among them; rule R86: the pins may be set at any time. That the mask is tested before the checks that reject
is the model's reading (DEDUCED, notes/assumptions/7.md). -/
def Obligations.StoreActionsNeedTheMask : Prop :=
  (∀ (s : State) (es : List Event) (act : EnvAction), s.tickMask = false → s.events = .env act :: es →
    ((∃ c bytes, act = .programChannel c bytes) ∨ (∃ c k b, act = .writeChByte c k b) ∨ act = .eraseChannels ∨
      act = .eraseMessage ∨ (∃ k b, act = .writeMsgByte k b) ∨
      act = .programStep ∧ ∃ p, s.programming = some p ∧ p.rest ≠ []) →
    step s = .refused .storeActionUnmasked) ∧
  ∀ (s : State) (es : List Event) (p : Nibble), s.events = .env (.setPins p) :: es →
    ∃ o : Output, step s = .next { s with chPins := p, events := es, out := o }

end
end

