-- ==== Sys2Proof/Laws/State.lean ====
section
/-!
SUPPORT. One lemma per field per update of the state, each true by rfl, so that no proof unfolds a record update;
and the readings of the store that an update leaves alone.
-/

namespace Sys2Proof.Machine

/-! ### respond -/

@[simp] theorem State.respond_cfg (s : State) (st : Status) (aux : Byte) (v : Half) : (s.respond st aux v).cfg = s.cfg := rfl
@[simp] theorem State.respond_crcAcc (s : State) (st : Status) (aux : Byte) (v : Half) : (s.respond st aux v).crcAcc = s.crcAcc := rfl
@[simp] theorem State.respond_errFlag (s : State) (st : Status) (aux : Byte) (v : Half) : (s.respond st aux v).errFlag = s.errFlag := rfl
@[simp] theorem State.respond_msgValid (s : State) (st : Status) (aux : Byte) (v : Half) : (s.respond st aux v).msgValid = s.msgValid := rfl
@[simp] theorem State.respond_waitTimer (s : State) (st : Status) (aux : Byte) (v : Half) : (s.respond st aux v).waitTimer = s.waitTimer := rfl
@[simp] theorem State.respond_messageTimer (s : State) (st : Status) (aux : Byte) (v : Half) : (s.respond st aux v).messageTimer = s.messageTimer := rfl
@[simp] theorem State.respond_elemTimer (s : State) (st : Status) (aux : Byte) (v : Half) : (s.respond st aux v).elemTimer = s.elemTimer := rfl
@[simp] theorem State.respond_elemReload (s : State) (st : Status) (aux : Byte) (v : Half) : (s.respond st aux v).elemReload = s.elemReload := rfl
@[simp] theorem State.respond_delayReload (s : State) (st : Status) (aux : Byte) (v : Half) : (s.respond st aux v).delayReload = s.delayReload := rfl
@[simp] theorem State.respond_edgeFlag (s : State) (st : Status) (aux : Byte) (v : Half) : (s.respond st aux v).edgeFlag = s.edgeFlag := rfl
@[simp] theorem State.respond_tickMask (s : State) (st : Status) (aux : Byte) (v : Half) : (s.respond st aux v).tickMask = s.tickMask := rfl
@[simp] theorem State.respond_tickPending (s : State) (st : Status) (aux : Byte) (v : Half) : (s.respond st aux v).tickPending = s.tickPending := rfl
@[simp] theorem State.respond_chBase (s : State) (st : Status) (aux : Byte) (v : Half) : (s.respond st aux v).chBase = s.chBase := rfl
@[simp] theorem State.respond_chDelta (s : State) (st : Status) (aux : Byte) (v : Half) : (s.respond st aux v).chDelta = s.chDelta := rfl
@[simp] theorem State.respond_reloadReq (s : State) (st : Status) (aux : Byte) (v : Half) : (s.respond st aux v).reloadReq = s.reloadReq := rfl
@[simp] theorem State.respond_out (s : State) (st : Status) (aux : Byte) (v : Half) : (s.respond st aux v).out = .answered (respWord st aux v) none := rfl
@[simp] theorem State.respond_chPins (s : State) (st : Status) (aux : Byte) (v : Half) : (s.respond st aux v).chPins = s.chPins := rfl
@[simp] theorem State.respond_store (s : State) (st : Status) (aux : Byte) (v : Half) : (s.respond st aux v).store = s.store := rfl
@[simp] theorem State.respond_programming (s : State) (st : Status) (aux : Byte) (v : Half) : (s.respond st aux v).programming = s.programming := rfl
@[simp] theorem State.respond_events (s : State) (st : Status) (aux : Byte) (v : Half) : (s.respond st aux v).events = s.events := rfl

/-! ### respondRecord -/

@[simp] theorem State.respondRecord_cfg (s : State) (st : Status) (aux : Byte) (v : Half) (r : Record) : (s.respondRecord st aux v r).cfg = s.cfg := rfl
@[simp] theorem State.respondRecord_crcAcc (s : State) (st : Status) (aux : Byte) (v : Half) (r : Record) : (s.respondRecord st aux v r).crcAcc = s.crcAcc := rfl
@[simp] theorem State.respondRecord_errFlag (s : State) (st : Status) (aux : Byte) (v : Half) (r : Record) : (s.respondRecord st aux v r).errFlag = s.errFlag := rfl
@[simp] theorem State.respondRecord_msgValid (s : State) (st : Status) (aux : Byte) (v : Half) (r : Record) : (s.respondRecord st aux v r).msgValid = s.msgValid := rfl
@[simp] theorem State.respondRecord_waitTimer (s : State) (st : Status) (aux : Byte) (v : Half) (r : Record) : (s.respondRecord st aux v r).waitTimer = s.waitTimer := rfl
@[simp] theorem State.respondRecord_messageTimer (s : State) (st : Status) (aux : Byte) (v : Half) (r : Record) : (s.respondRecord st aux v r).messageTimer = s.messageTimer := rfl
@[simp] theorem State.respondRecord_elemTimer (s : State) (st : Status) (aux : Byte) (v : Half) (r : Record) : (s.respondRecord st aux v r).elemTimer = s.elemTimer := rfl
@[simp] theorem State.respondRecord_elemReload (s : State) (st : Status) (aux : Byte) (v : Half) (r : Record) : (s.respondRecord st aux v r).elemReload = s.elemReload := rfl
@[simp] theorem State.respondRecord_delayReload (s : State) (st : Status) (aux : Byte) (v : Half) (r : Record) : (s.respondRecord st aux v r).delayReload = s.delayReload := rfl
@[simp] theorem State.respondRecord_edgeFlag (s : State) (st : Status) (aux : Byte) (v : Half) (r : Record) : (s.respondRecord st aux v r).edgeFlag = s.edgeFlag := rfl
@[simp] theorem State.respondRecord_tickMask (s : State) (st : Status) (aux : Byte) (v : Half) (r : Record) : (s.respondRecord st aux v r).tickMask = s.tickMask := rfl
@[simp] theorem State.respondRecord_tickPending (s : State) (st : Status) (aux : Byte) (v : Half) (r : Record) : (s.respondRecord st aux v r).tickPending = s.tickPending := rfl
@[simp] theorem State.respondRecord_chBase (s : State) (st : Status) (aux : Byte) (v : Half) (r : Record) : (s.respondRecord st aux v r).chBase = s.chBase := rfl
@[simp] theorem State.respondRecord_chDelta (s : State) (st : Status) (aux : Byte) (v : Half) (r : Record) : (s.respondRecord st aux v r).chDelta = s.chDelta := rfl
@[simp] theorem State.respondRecord_reloadReq (s : State) (st : Status) (aux : Byte) (v : Half) (r : Record) : (s.respondRecord st aux v r).reloadReq = s.reloadReq := rfl
@[simp] theorem State.respondRecord_out (s : State) (st : Status) (aux : Byte) (v : Half) (r : Record) : (s.respondRecord st aux v r).out = .answered (respWord st aux v) (some r) := rfl
@[simp] theorem State.respondRecord_chPins (s : State) (st : Status) (aux : Byte) (v : Half) (r : Record) : (s.respondRecord st aux v r).chPins = s.chPins := rfl
@[simp] theorem State.respondRecord_store (s : State) (st : Status) (aux : Byte) (v : Half) (r : Record) : (s.respondRecord st aux v r).store = s.store := rfl
@[simp] theorem State.respondRecord_programming (s : State) (st : Status) (aux : Byte) (v : Half) (r : Record) : (s.respondRecord st aux v r).programming = s.programming := rfl
@[simp] theorem State.respondRecord_events (s : State) (st : Status) (aux : Byte) (v : Half) (r : Record) : (s.respondRecord st aux v r).events = s.events := rfl

/-! ### report -/

@[simp] theorem State.report_cfg (s : State) (r : EnvReport) : (s.report r).cfg = s.cfg := rfl
@[simp] theorem State.report_crcAcc (s : State) (r : EnvReport) : (s.report r).crcAcc = s.crcAcc := rfl
@[simp] theorem State.report_errFlag (s : State) (r : EnvReport) : (s.report r).errFlag = s.errFlag := rfl
@[simp] theorem State.report_msgValid (s : State) (r : EnvReport) : (s.report r).msgValid = s.msgValid := rfl
@[simp] theorem State.report_waitTimer (s : State) (r : EnvReport) : (s.report r).waitTimer = s.waitTimer := rfl
@[simp] theorem State.report_messageTimer (s : State) (r : EnvReport) : (s.report r).messageTimer = s.messageTimer := rfl
@[simp] theorem State.report_elemTimer (s : State) (r : EnvReport) : (s.report r).elemTimer = s.elemTimer := rfl
@[simp] theorem State.report_elemReload (s : State) (r : EnvReport) : (s.report r).elemReload = s.elemReload := rfl
@[simp] theorem State.report_delayReload (s : State) (r : EnvReport) : (s.report r).delayReload = s.delayReload := rfl
@[simp] theorem State.report_edgeFlag (s : State) (r : EnvReport) : (s.report r).edgeFlag = s.edgeFlag := rfl
@[simp] theorem State.report_tickMask (s : State) (r : EnvReport) : (s.report r).tickMask = s.tickMask := rfl
@[simp] theorem State.report_tickPending (s : State) (r : EnvReport) : (s.report r).tickPending = s.tickPending := rfl
@[simp] theorem State.report_chBase (s : State) (r : EnvReport) : (s.report r).chBase = s.chBase := rfl
@[simp] theorem State.report_chDelta (s : State) (r : EnvReport) : (s.report r).chDelta = s.chDelta := rfl
@[simp] theorem State.report_reloadReq (s : State) (r : EnvReport) : (s.report r).reloadReq = s.reloadReq := rfl
@[simp] theorem State.report_out (s : State) (r : EnvReport) : (s.report r).out = .reported r := rfl
@[simp] theorem State.report_chPins (s : State) (r : EnvReport) : (s.report r).chPins = s.chPins := rfl
@[simp] theorem State.report_store (s : State) (r : EnvReport) : (s.report r).store = s.store := rfl
@[simp] theorem State.report_programming (s : State) (r : EnvReport) : (s.report r).programming = s.programming := rfl
@[simp] theorem State.report_events (s : State) (r : EnvReport) : (s.report r).events = s.events := rfl

/-! ### doTick -/

@[simp] theorem State.doTick_cfg (s : State) : (s.doTick).cfg = s.cfg := rfl
@[simp] theorem State.doTick_crcAcc (s : State) : (s.doTick).crcAcc = s.crcAcc := rfl
@[simp] theorem State.doTick_errFlag (s : State) : (s.doTick).errFlag = s.errFlag := rfl
@[simp] theorem State.doTick_msgValid (s : State) : (s.doTick).msgValid = s.msgValid := rfl
@[simp] theorem State.doTick_waitTimer (s : State) : (s.doTick).waitTimer = countDown s.waitTimer := rfl
@[simp] theorem State.doTick_messageTimer (s : State) : (s.doTick).messageTimer = countDown s.messageTimer := rfl
@[simp] theorem State.doTick_elemTimer (s : State) : (s.doTick).elemTimer = if countDown s.elemTimer = 0 then s.elemReload else countDown s.elemTimer := rfl
@[simp] theorem State.doTick_elemReload (s : State) : (s.doTick).elemReload = s.elemReload := rfl
@[simp] theorem State.doTick_delayReload (s : State) : (s.doTick).delayReload = s.delayReload := rfl
@[simp] theorem State.doTick_edgeFlag (s : State) : (s.doTick).edgeFlag = if countDown s.elemTimer = 0 then true else s.edgeFlag := rfl
@[simp] theorem State.doTick_tickMask (s : State) : (s.doTick).tickMask = s.tickMask := rfl
@[simp] theorem State.doTick_tickPending (s : State) : (s.doTick).tickPending = s.tickPending := rfl
@[simp] theorem State.doTick_chBase (s : State) : (s.doTick).chBase = s.chBase := rfl
@[simp] theorem State.doTick_chDelta (s : State) : (s.doTick).chDelta = s.chDelta := rfl
@[simp] theorem State.doTick_reloadReq (s : State) : (s.doTick).reloadReq = s.reloadReq := rfl
@[simp] theorem State.doTick_out (s : State) : (s.doTick).out = s.out := rfl
@[simp] theorem State.doTick_chPins (s : State) : (s.doTick).chPins = s.chPins := rfl
@[simp] theorem State.doTick_store (s : State) : (s.doTick).store = s.store := rfl
@[simp] theorem State.doTick_programming (s : State) : (s.doTick).programming = s.programming := rfl
@[simp] theorem State.doTick_events (s : State) : (s.doTick).events = s.events := rfl

/-! ### resetBlock -/

@[simp] theorem State.resetBlock_cfg (s : State) : (s.resetBlock).cfg = s.cfg := rfl
@[simp] theorem State.resetBlock_crcAcc (s : State) : (s.resetBlock).crcAcc = 0x0000 := rfl
@[simp] theorem State.resetBlock_errFlag (s : State) : (s.resetBlock).errFlag = false := rfl
@[simp] theorem State.resetBlock_msgValid (s : State) : (s.resetBlock).msgValid = false := rfl
@[simp] theorem State.resetBlock_waitTimer (s : State) : (s.resetBlock).waitTimer = 0x0000 := rfl
@[simp] theorem State.resetBlock_messageTimer (s : State) : (s.resetBlock).messageTimer = 0x0000 := rfl
@[simp] theorem State.resetBlock_elemTimer (s : State) : (s.resetBlock).elemTimer = 0x0000 := rfl
@[simp] theorem State.resetBlock_elemReload (s : State) : (s.resetBlock).elemReload = 0x0000 := rfl
@[simp] theorem State.resetBlock_delayReload (s : State) : (s.resetBlock).delayReload = 0x0000 := rfl
@[simp] theorem State.resetBlock_edgeFlag (s : State) : (s.resetBlock).edgeFlag = false := rfl
@[simp] theorem State.resetBlock_tickMask (s : State) : (s.resetBlock).tickMask = true := rfl
@[simp] theorem State.resetBlock_tickPending (s : State) : (s.resetBlock).tickPending = false := rfl
@[simp] theorem State.resetBlock_chBase (s : State) : (s.resetBlock).chBase = 0x0 := rfl
@[simp] theorem State.resetBlock_chDelta (s : State) : (s.resetBlock).chDelta = 0x0 := rfl
@[simp] theorem State.resetBlock_reloadReq (s : State) : (s.resetBlock).reloadReq = true := rfl
@[simp] theorem State.resetBlock_out (s : State) : (s.resetBlock).out = .silent := rfl
@[simp] theorem State.resetBlock_chPins (s : State) : (s.resetBlock).chPins = s.chPins := rfl
@[simp] theorem State.resetBlock_store (s : State) : (s.resetBlock).store = s.store := rfl
@[simp] theorem State.resetBlock_programming (s : State) : (s.resetBlock).programming = s.programming := rfl
@[simp] theorem State.resetBlock_events (s : State) : (s.resetBlock).events = s.events := rfl

/-! ### pushEvent -/

@[simp] theorem State.pushEvent_cfg (s : State) (e : Event) : (s.pushEvent e).cfg = s.cfg := rfl
@[simp] theorem State.pushEvent_crcAcc (s : State) (e : Event) : (s.pushEvent e).crcAcc = s.crcAcc := rfl
@[simp] theorem State.pushEvent_errFlag (s : State) (e : Event) : (s.pushEvent e).errFlag = s.errFlag := rfl
@[simp] theorem State.pushEvent_msgValid (s : State) (e : Event) : (s.pushEvent e).msgValid = s.msgValid := rfl
@[simp] theorem State.pushEvent_waitTimer (s : State) (e : Event) : (s.pushEvent e).waitTimer = s.waitTimer := rfl
@[simp] theorem State.pushEvent_messageTimer (s : State) (e : Event) : (s.pushEvent e).messageTimer = s.messageTimer := rfl
@[simp] theorem State.pushEvent_elemTimer (s : State) (e : Event) : (s.pushEvent e).elemTimer = s.elemTimer := rfl
@[simp] theorem State.pushEvent_elemReload (s : State) (e : Event) : (s.pushEvent e).elemReload = s.elemReload := rfl
@[simp] theorem State.pushEvent_delayReload (s : State) (e : Event) : (s.pushEvent e).delayReload = s.delayReload := rfl
@[simp] theorem State.pushEvent_edgeFlag (s : State) (e : Event) : (s.pushEvent e).edgeFlag = s.edgeFlag := rfl
@[simp] theorem State.pushEvent_tickMask (s : State) (e : Event) : (s.pushEvent e).tickMask = s.tickMask := rfl
@[simp] theorem State.pushEvent_tickPending (s : State) (e : Event) : (s.pushEvent e).tickPending = s.tickPending := rfl
@[simp] theorem State.pushEvent_chBase (s : State) (e : Event) : (s.pushEvent e).chBase = s.chBase := rfl
@[simp] theorem State.pushEvent_chDelta (s : State) (e : Event) : (s.pushEvent e).chDelta = s.chDelta := rfl
@[simp] theorem State.pushEvent_reloadReq (s : State) (e : Event) : (s.pushEvent e).reloadReq = s.reloadReq := rfl
@[simp] theorem State.pushEvent_out (s : State) (e : Event) : (s.pushEvent e).out = s.out := rfl
@[simp] theorem State.pushEvent_chPins (s : State) (e : Event) : (s.pushEvent e).chPins = s.chPins := rfl
@[simp] theorem State.pushEvent_store (s : State) (e : Event) : (s.pushEvent e).store = s.store := rfl
@[simp] theorem State.pushEvent_programming (s : State) (e : Event) : (s.pushEvent e).programming = s.programming := rfl
@[simp] theorem State.pushEvent_events (s : State) (e : Event) : (s.pushEvent e).events = e :: s.events := rfl

/-! ### The answers that are written over `respond` -/

theorem State.raise_eq (s : State) (st : Status) : s.raise st = s.respond st 0 0 := rfl

theorem State.respondCommand_eq (s : State) (hit rl : Bool) :
    s.respondCommand hit rl = s.respond .ok (auxBits hit rl) s.chrd := rfl

theorem State.respondSelection_eq (s : State) (sel : Selection) :
    s.respondSelection sel = s.respondRecord .ok (auxBits sel.fallback sel.stillEmpty)
      ((BitVec.ofNat 16 sel.asked <<< 8) + BitVec.ofNat 16 sel.returned) sel.record := rfl

/-! ### What is read from the store depends on the parameters and the store only -/

theorem State.chanReg_congr {s t : State} (hc : t.cfg = s.cfg) (hm : t.store = s.store) (c r : Nat) :
    t.chanReg c r = s.chanReg c r := by simp [State.chanReg, State.chanByte, hc, hm]

theorem State.msgByte_congr {s t : State} (hc : t.cfg = s.cfg) (hm : t.store = s.store) : t.msgByte = s.msgByte := by
  funext k; simp [State.msgByte, hc, hm]

theorem State.termScan_congr {s t : State} (hc : t.cfg = s.cfg) (hm : t.store = s.store) :
    t.termScan = s.termScan := by
  have h : t.termAt = s.termAt := by funext k; simp [State.termAt, State.msgByte_congr hc hm, hc]
  simp [State.termScan, h, hc]

theorem State.chanCrc_congr {s t : State} (hc : t.cfg = s.cfg) (hm : t.store = s.store) : t.chanCrc = s.chanCrc := by
  simp [State.chanCrc, hc, hm]

theorem State.select_congr {s t : State} (hc : t.cfg = s.cfg) (hm : t.store = s.store) : t.select = s.select := by
  funext i
  simp [State.select, State.returnedIndex, State.emptyRecord, State.chanRecord, State.chanReg_congr hc hm, hc]

end Sys2Proof.Machine
end

