-- ==== Sys2Proof/Laws/Store.lean ====
section
/-!
SUPPORT. What the store's operations do: a read after a write, the canonical form and that every operation keeps
it, and that equal reads mean equal memories.
-/

namespace Sys2Proof.Machine

theorem Memory.wf_nil : Memory.wf [] := by simp [Memory.wf]

theorem Memory.wf_cons {c : Host.Cell} {m : Memory} :
    Memory.wf (c :: m) ↔ (∀ d ∈ m, c.1 < d.1) ∧ c.2 ≠ erasedByte ∧ Memory.wf m := by
  simp only [Memory.wf, List.pairwise_cons, List.forall_mem_cons]
  tauto

@[simp] theorem Memory.read_nil (a : Nat) : Memory.read [] a = erasedByte := rfl

@[simp] theorem Memory.read_cons (c : Host.Cell) (m : Memory) (a : Nat) :
    Memory.read (c :: m) a = if c.1 = a then c.2 else Memory.read m a := rfl

/-- An address below every listed one reads as erased. -/
theorem Memory.read_below {m : Memory} {a : Nat} (h : ∀ c ∈ m, a < c.1) : m.read a = erasedByte := by
  induction m with
  | nil => rfl
  | cons c m ih =>
    have hc := h c (by simp)
    simp [Nat.ne_of_gt hc, ih fun d hd => h d (by simp [hd])]

/-- An address that no entry names reads as erased. -/
theorem Memory.read_unlisted {m : Memory} {a : Nat} (h : ∀ c ∈ m, c.1 ≠ a) : m.read a = erasedByte := by
  induction m with
  | nil => rfl
  | cons c m ih => simp [h c (by simp), ih fun d hd => h d (by simp [hd])]

/-- An address that does not read as erased is listed. -/
theorem Memory.listed_of_read {m : Memory} {a : Nat} (h : m.read a ≠ erasedByte) : ∃ c ∈ m, c.1 = a := by
  by_contra hn
  exact h (Memory.read_unlisted fun c hc he => hn ⟨c, hc, he⟩)

/-- A read after a write: the byte written at its address, and elsewhere what was there. -/
theorem Memory.read_write {m : Memory} (hm : m.wf) (a : Nat) (b : Byte) (x : Nat) :
    (m.write a b).read x = if x = a then b else m.read x := by
  induction m with
  | nil =>
    by_cases hb : b = erasedByte
    · simp [Memory.write, hb]
    · by_cases hx : x = a
      · simp [Memory.write, hb, hx]
      · simp [Memory.write, hb, hx, Ne.symm hx]
  | cons c m ih =>
    obtain ⟨hlt, -, hwf⟩ := Memory.wf_cons.mp hm
    have hlow : ∀ y, y ≤ c.1 → Memory.read m y = erasedByte := fun y hy =>
      Memory.read_below fun d hd => lt_of_le_of_lt hy (hlt d hd)
    obtain ⟨k, v⟩ := c
    by_cases hx : x = a
    · subst hx
      rcases lt_trichotomy x k with h | h | h
      · by_cases hb : b = erasedByte
        · simp [Memory.write, h, hb, Nat.ne_of_gt h, hlow x (Nat.le_of_lt h)]
        · simp [Memory.write, h, hb]
      · subst h
        by_cases hb : b = erasedByte
        · simp [Memory.write, hb, hlow x (Nat.le_refl x)]
        · simp [Memory.write, hb]
      · simp [Memory.write, Nat.not_lt_of_gt h, Nat.ne_of_gt h, Nat.ne_of_lt h, ih hwf]
    · rcases lt_trichotomy a k with h | h | h
      · by_cases hb : b = erasedByte <;> simp [Memory.write, h, hb, hx, Ne.symm hx]
      · subst h
        by_cases hb : b = erasedByte <;> simp [Memory.write, hb, hx, Ne.symm hx]
      · simp [Memory.write, Nat.not_lt_of_gt h, Nat.ne_of_gt h, hx, ih hwf]

/-- Every entry after a write is the one written or was there before. -/
theorem Memory.mem_write {m : Memory} {a : Nat} {b : Byte} {c : Host.Cell} (h : c ∈ m.write a b) :
    (c = (a, b) ∧ b ≠ erasedByte) ∨ c ∈ m := by
  induction m with
  | nil =>
    simp only [Memory.write] at h
    split_ifs at h with hb
    · simp at h
    · exact .inl ⟨by simpa using h, hb⟩
  | cons d m ih =>
    obtain ⟨k, v⟩ := d
    simp only [Memory.write] at h
    split_ifs at h with h1 hb h2 hb
    · exact .inr h
    · rcases List.mem_cons.mp h with h | h
      · exact .inl ⟨h, hb⟩
      · exact .inr h
    · exact .inr (by simp [h])
    · rcases List.mem_cons.mp h with h | h
      · exact .inl ⟨h, hb⟩
      · exact .inr (by simp [h])
    · rcases List.mem_cons.mp h with h | h
      · exact .inr (by simp [h])
      · rcases ih h with h | h
        · exact .inl h
        · exact .inr (by simp [h])

/-- A write keeps the canonical form. -/
theorem Memory.write_wf {m : Memory} (hm : m.wf) (a : Nat) (b : Byte) : (m.write a b).wf := by
  induction m with
  | nil =>
    simp only [Memory.write]
    split_ifs with hb
    · exact Memory.wf_nil
    · exact Memory.wf_cons.mpr ⟨by simp, hb, Memory.wf_nil⟩
  | cons c m ih =>
    obtain ⟨hlt, hne, hwf⟩ := Memory.wf_cons.mp hm
    obtain ⟨k, v⟩ := c
    simp only [Memory.write]
    split_ifs with h1 hb h2 hb
    · exact hm
    · refine Memory.wf_cons.mpr ⟨fun d hd => ?_, hb, hm⟩
      rcases List.mem_cons.mp hd with rfl | hd
      · exact h1
      · exact lt_trans h1 (hlt d hd)
    · exact hwf
    · subst h2; exact Memory.wf_cons.mpr ⟨hlt, hb, hwf⟩
    · refine Memory.wf_cons.mpr ⟨fun d hd => ?_, hne, ih hwf⟩
      rcases Memory.mem_write hd with ⟨rfl, -⟩ | hd
      · exact lt_of_le_of_ne (Nat.le_of_not_lt h1) (Ne.symm h2)
      · exact hlt d hd

/-- A read after an erase: erased inside the range, and elsewhere what was there. -/
theorem Memory.read_eraseRange (m : Memory) (lo n x : Nat) :
    (m.eraseRange lo n).read x = if lo ≤ x ∧ x < lo + n then erasedByte else m.read x := by
  unfold Memory.eraseRange
  induction m with
  | nil => simp
  | cons c m ih =>
    by_cases hc : lo ≤ c.1 ∧ c.1 < lo + n
    · rw [List.filter_cons_of_neg (by simp [hc]), ih]
      by_cases hx : c.1 = x
      · subst hx; simp [hc]
      · simp [hx]
    · rw [List.filter_cons_of_pos (by simp; omega), Memory.read_cons, ih, Memory.read_cons]
      by_cases hx : c.1 = x
      · subst hx; simp [hc]
      · simp [hx]

/-- An erase keeps the canonical form. -/
theorem Memory.eraseRange_wf {m : Memory} (hm : m.wf) (lo n : Nat) : (m.eraseRange lo n).wf :=
  ⟨hm.1.filter _, fun c hc => hm.2 c (List.mem_filter.mp hc).1⟩

/-- Memories in canonical form that read the same everywhere are the same list. -/
theorem Memory.eq_of_read {m n : Memory} (hm : m.wf) (hn : n.wf) (h : ∀ a, m.read a = n.read a) : m = n := by
  induction m generalizing n with
  | nil =>
    cases n with
    | nil => rfl
    | cons d n =>
      obtain ⟨-, hne, -⟩ := Memory.wf_cons.mp hn
      have := h d.1
      simp at this
      exact absurd this.symm hne
  | cons c m ih =>
    obtain ⟨hlc, hnc, hwc⟩ := Memory.wf_cons.mp hm
    cases n with
    | nil =>
      have := h c.1
      simp at this
      exact absurd this hnc
    | cons d n =>
      obtain ⟨hld, hnd, hwd⟩ := Memory.wf_cons.mp hn
      have key : c.1 = d.1 := by
        rcases lt_trichotomy c.1 d.1 with hlt | heq | hlt
        · have h1 := h c.1
          rw [Memory.read_below (m := d :: n) (by
            intro e he
            rcases List.mem_cons.mp he with rfl | he
            · exact hlt
            · exact lt_trans hlt (hld e he))] at h1
          simp at h1
          exact absurd h1 hnc
        · exact heq
        · have h1 := h d.1
          rw [Memory.read_below (m := c :: m) (by
            intro e he
            rcases List.mem_cons.mp he with rfl | he
            · exact hlt
            · exact lt_trans hlt (hlc e he))] at h1
          simp at h1
          exact absurd h1.symm hnd
      have hv : c.2 = d.2 := by have h1 := h c.1; simpa [key] using h1
      have hcd : c = d := Prod.ext key hv
      subst hcd
      rw [ih hwc hwd fun a => ?_]
      by_cases ha : c.1 = a
      · subst ha
        rw [Memory.read_below hlc, Memory.read_below hld]
      · have h1 := h a
        simpa [ha] using h1

/-- Reading a range depends on the bytes of the range only. -/
theorem Memory.readRange_congr {m n : Memory} {lo len : Nat} (h : ∀ a, lo ≤ a → a < lo + len → m.read a = n.read a) :
    m.readRange lo len = n.readRange lo len := by
  simp only [Memory.readRange]
  refine List.map_congr_left fun j hj => h _ (by omega) ?_
  have := List.mem_range.mp hj
  omega

@[simp] theorem Memory.length_readRange (m : Memory) (lo n : Nat) : (m.readRange lo n).length = n := by
  simp [Memory.readRange]

end Sys2Proof.Machine
end

