-- ==== Sys2Proof/Laws/Words.lean ====
section
/-!
SUPPORT. The packings as numbers: the fields of a request word and of a command byte, the response word, and the
flag summaries.
-/

namespace Sys2Proof

theorem toNat_append {m n : Nat} (x : BitVec m) (y : BitVec n) : (x ++ y).toNat = x.toNat * 2 ^ n + y.toNat := by
  rw [BitVec.toNat_append, ← Nat.shiftLeft_add_eq_or_of_lt y.isLt, Nat.shiftLeft_eq]

/-! ### Request words -/

theorem toNat_reqOp (w : Word) : (reqOp w).toNat = w.toNat / 2 ^ 24 := by
  have := w.isLt
  simp only [reqOp, BitVec.extractLsb'_toNat, Nat.shiftRight_eq_div_pow]
  omega

theorem toNat_reqA (w : Word) : (reqA w).toNat = w.toNat / 2 ^ 16 % 256 := by
  simp [reqA, BitVec.extractLsb'_toNat, Nat.shiftRight_eq_div_pow]

theorem toNat_reqV (w : Word) : (reqV w).toNat = w.toNat % 2 ^ 16 := by
  simp [reqV, BitVec.extractLsb'_toNat]

theorem toNat_reqWord (op a : Byte) (v : Half) :
    (reqWord op a v).toNat = op.toNat * 2 ^ 24 + a.toNat * 2 ^ 16 + v.toNat := by
  have h : (reqWord op a v).toNat = (op ++ a ++ v).toNat := rfl
  rw [h, toNat_append, toNat_append]
  omega

@[simp] theorem reqOp_reqWord (op a : Byte) (v : Half) : reqOp (reqWord op a v) = op := by
  have := a.isLt
  have := v.isLt
  apply BitVec.eq_of_toNat_eq
  rw [toNat_reqOp, toNat_reqWord]
  omega

@[simp] theorem reqA_reqWord (op a : Byte) (v : Half) : reqA (reqWord op a v) = a := by
  have := a.isLt
  have := v.isLt
  apply BitVec.eq_of_toNat_eq
  rw [toNat_reqA, toNat_reqWord]
  omega

@[simp] theorem reqV_reqWord (op a : Byte) (v : Half) : reqV (reqWord op a v) = v := by
  have := v.isLt
  apply BitVec.eq_of_toNat_eq
  rw [toNat_reqV, toNat_reqWord]
  omega

/-- A request word is its three fields. -/
theorem reqWord_fields (w : Word) : reqWord (reqOp w) (reqA w) (reqV w) = w := by
  have := w.isLt
  apply BitVec.eq_of_toNat_eq
  rw [toNat_reqWord, toNat_reqOp, toNat_reqA, toNat_reqV]
  omega

/-- A request word from the number that the spec writes for it. -/
theorem ofNat_eq_reqWord (op a : Byte) (v : Half) :
    BitVec.ofNat 32 (op.toNat * 2 ^ 24 + a.toNat * 2 ^ 16 + v.toNat) = reqWord op a v := by
  have := (reqWord op a v).isLt
  have h := toNat_reqWord op a v
  apply BitVec.eq_of_toNat_eq
  rw [BitVec.toNat_ofNat]
  omega

/-! ### Command bytes -/

theorem toNat_cmdCode (b : Byte) : (cmdCode b).toNat = b.toNat / 16 := by
  have := b.isLt
  simp only [cmdCode, BitVec.extractLsb'_toNat, Nat.shiftRight_eq_div_pow]
  omega

theorem toNat_cmdOperand (b : Byte) : (cmdOperand b).toNat = b.toNat % 16 := by
  simp [cmdOperand, BitVec.extractLsb'_toNat]

theorem toNat_cmdByte (code k : Nibble) : (cmdByte code k).toNat = code.toNat * 16 + k.toNat :=
  toNat_append code k

@[simp] theorem cmdCode_cmdByte (code k : Nibble) : cmdCode (cmdByte code k) = code := by
  have := k.isLt
  apply BitVec.eq_of_toNat_eq
  rw [toNat_cmdCode, toNat_cmdByte]
  omega

@[simp] theorem cmdOperand_cmdByte (code k : Nibble) : cmdOperand (cmdByte code k) = k := by
  have := k.isLt
  apply BitVec.eq_of_toNat_eq
  rw [toNat_cmdOperand, toNat_cmdByte]
  omega

/-- A command byte is its two nibbles. -/
theorem cmdByte_fields (b : Byte) : cmdByte (cmdCode b) (cmdOperand b) = b := by
  apply BitVec.eq_of_toNat_eq
  rw [toNat_cmdByte, toNat_cmdCode, toNat_cmdOperand]
  omega

theorem toNat_be16 (b0 b1 : Byte) : (be16 b0 b1).toNat = b0.toNat * 256 + b1.toNat := toNat_append b0 b1

end Sys2Proof

namespace Sys2Proof.Machine

/-! ### Response words -/

@[simp] theorem toNat_flag16 (b : Bool) : (flag16 b).toNat = bit b := by cases b <;> rfl

@[simp] theorem toNat_auxBits (b0 b1 : Bool) : (auxBits b0 b1).toNat = bit b0 + 2 * bit b1 := by
  cases b0 <;> cases b1 <;> rfl

/-- The response word is the number of rule R92. -/
theorem respWord_eq (st : Status) (aux : Byte) (v : Half) :
    respWord st aux v = resp32 st.code.toNat aux.toNat v.toNat := by
  have h : (respWord st aux v).toNat = (st.code ++ aux ++ v).toNat := rfl
  have := (respWord st aux v).isLt
  apply BitVec.eq_of_toNat_eq
  rw [resp32, BitVec.toNat_ofNat, h, toNat_append, toNat_append]
  rw [h, toNat_append, toNat_append] at this
  omega

theorem toNat_chActive (s : State) : s.chActive.toNat = (s.chBase.toNat + s.chDelta.toNat) % 16 := by
  simp [State.chActive, BitVec.toNat_add]

theorem toNat_chrd (s : State) : s.chrd.toNat = chrdNat s.chBase s.chDelta s.reloadReq := by
  have h1 := s.chBase.isLt
  have h2 := s.chDelta.isLt
  have h3 := s.chActive.isLt
  have h4 := toNat_chActive s
  have h5 : bit s.reloadReq ≤ 1 := by cases s.reloadReq <;> decide
  simp only [State.chrd, chrdNat, BitVec.toNat_add, BitVec.toNat_shiftLeft, BitVec.toNat_setWidth, toNat_flag16,
    Nat.shiftLeft_eq]
  omega

theorem bit_le_one (b : Bool) : bit b ≤ 1 := by cases b <;> decide

/-- A flag shifted to its place. -/
theorem toNat_flag16_shift (b : Bool) (k : Nat) (hk : k < 16) : (flag16 b <<< k).toNat = bit b * 2 ^ k := by
  have h1 : bit b * 2 ^ k ≤ 1 * 2 ^ 15 := Nat.mul_le_mul (bit_le_one b) (Nat.pow_le_pow_right (by decide) (by omega))
  rw [BitVec.toNat_shiftLeft, toNat_flag16, Nat.shiftLeft_eq, Nat.mod_eq_of_lt (by omega)]

theorem toNat_stat (s : State) : s.stat.toNat =
    bit s.edgeFlag + 2 * bit s.errFlag + 4 * bit s.msgValid + 8 * bit s.reloadReq + 16 * bit s.tickMask +
      32 * bit s.tickPending + 64 * bit (decide (s.waitTimer = 0)) + 128 * bit (decide (s.messageTimer = 0)) +
      256 * ((s.chBase.toNat + s.chDelta.toNat) % 16) := by
  have hch : ((s.chActive.setWidth 16 : Half) <<< 8).toNat = ((s.chBase.toNat + s.chDelta.toNat) % 16) * 2 ^ 8 := by
    have := s.chActive.isLt
    rw [BitVec.toNat_shiftLeft, BitVec.toNat_setWidth, toNat_chActive, Nat.shiftLeft_eq]
    omega
  have e1 : (s.waitTimer == 0) = decide (s.waitTimer = 0) := rfl
  have e2 : (s.messageTimer == 0) = decide (s.messageTimer = 0) := rfl
  have := bit_le_one s.edgeFlag
  have := bit_le_one s.errFlag
  have := bit_le_one s.msgValid
  have := bit_le_one s.reloadReq
  have := bit_le_one s.tickMask
  have := bit_le_one s.tickPending
  have := bit_le_one (decide (s.waitTimer = 0))
  have := bit_le_one (decide (s.messageTimer = 0))
  simp only [State.stat, BitVec.toNat_add, hch, toNat_flag16, e1, e2, Nat.mod_add_mod,
    toNat_flag16_shift _ 1 (by decide), toNat_flag16_shift _ 2 (by decide), toNat_flag16_shift _ 3 (by decide),
    toNat_flag16_shift _ 4 (by decide), toNat_flag16_shift _ 5 (by decide), toNat_flag16_shift _ 6 (by decide),
    toNat_flag16_shift _ 7 (by decide)]
  rw [Nat.mod_eq_of_lt (by omega)]
  omega

/-- The two indices of a SEL response in their bytes. -/
theorem toNat_indices (c c2 : Nat) (hc : c < 256) (h2 : c2 < 256) :
    ((BitVec.ofNat 16 c <<< 8) + BitVec.ofNat 16 c2).toNat = 256 * c + c2 := by
  simp only [BitVec.toNat_add, BitVec.toNat_shiftLeft, BitVec.toNat_ofNat, Nat.shiftLeft_eq]
  omega

end Sys2Proof.Machine
end

