-- ==== Sys2Proof/Laws/Ops.lean ====
section
/-!
SUPPORT. What each shared operation can do, said once: the proofs about instructions and about the step cite these
and unfold nothing.
-/

namespace Sys2Proof.Machine

/-! ### Counters -/

theorem toNat_countDown (t : Half) : (countDown t).toNat = t.toNat - 1 := by
  have := t.isLt
  unfold countDown
  split_ifs with h
  · simp [h]
  · have hn : t.toNat ≠ 0 := fun h0 => h (BitVec.eq_of_toNat_eq h0)
    rw [BitVec.toNat_sub]
    simp
    omega

theorem countDown_eq_ofNat (t : Half) : countDown t = BitVec.ofNat 16 (t.toNat - 1) := by
  have := t.isLt
  apply BitVec.eq_of_toNat_eq
  rw [toNat_countDown, BitVec.toNat_ofNat]
  omega

theorem countDown_eq_zero (t : Half) : countDown t = 0 ↔ t.toNat ≤ 1 := by
  rw [← BitVec.toNat_inj, toNat_countDown]
  simp
  omega

/-! ### The CRC -/

theorem crcStep_eq (c : Half) (b : Byte) :
    crcStep c b = crcRound (crcRound (crcRound (crcRound (crcRound (crcRound (crcRound (crcRound
      (c ^^^ (b.setWidth 16 <<< 8))))))))) := rfl

theorem crc16_append (x y : List Byte) : crc16 (x ++ y) = y.foldl crcStep (crc16 x) := by
  simp [crc16, List.foldl_append]

/-- A compare leaves the computed CRC in `crc_acc`, latches `err_flag` on a mismatch and changes nothing else. -/
theorem compareCrc_eq (s : State) (c v : Half) :
    s.compareCrc c v =
      { s with
        crcAcc := c
        errFlag := s.errFlag || decide (c ≠ v)
        out := .answered (resp32 (if c = v then 0 else 1) 0 c.toNat) none } := by
  unfold State.compareCrc
  split_ifs with h <;> simp [State.respond, respWord_eq, Status.code, h]

theorem chanCrc_eq (s : State) : s.chanCrc = crc16 (chanBytes s) := rfl

theorem msgCrc_eq (s : State) (len : Nat) : s.msgCrc len = crc16 (bankBytes s len) := rfl

theorem toNat_elemDur (s : State) : s.elemDur.toNat = durNat s := toNat_be16 _ _

theorem toNat_msgDelay (s : State) : s.msgDelay.toNat = delayNat s := toNat_be16 _ _

/-- The length that the scan finds lies in the usable area. -/
theorem termScan_bounds {s : State} {len : Nat} (h : s.termScan = some len) : 16 ≤ len ∧ len ≤ s.cfg.msgUsable := by
  unfold State.termScan at h
  obtain ⟨i, hi, rfl⟩ := Option.map_eq_some_iff.mp h
  have hp := List.find?_some hi
  simp only [Bool.and_eq_true, decide_eq_true_eq] at hp
  omega

/-! ### The selection -/

theorem returnedIndex_le (s : State) (c : Nat) : s.returnedIndex c ≤ c := by
  unfold State.returnedIndex
  split_ifs <;> omega

/-- What the three SEL operations answer, for an index of at most 8 bits. -/
theorem respondSelection_select (s : State) (i : Nat) (hi : i < 256) (t : State) :
    t.respondSelection (s.select i) = { t with out := selReply s i } := by
  have hc : i % s.cfg.channels < 256 := lt_of_le_of_lt (Nat.mod_le _ _) hi
  have h2 := lt_of_le_of_lt (returnedIndex_le s (i % s.cfg.channels)) hc
  simp only [State.respondSelection, State.respondRecord, respWord_eq, toNat_auxBits]
  have e : (s.select i).asked = i % s.cfg.channels := rfl
  have e2 : (s.select i).returned = s.returnedIndex (i % s.cfg.channels) := rfl
  rw [e, e2, toNat_indices _ _ hc h2]
  rfl

/-! ### The environment's actions -/

/-- A store action that answers a next state was taken with ticks masked. -/
theorem storeAction_next {s t : State} {act : State → Result} (h : storeAction s act = .next t) :
    s.tickMask = true ∧ act s = .next t := by
  unfold storeAction at h
  split_ifs at h with hm
  exact ⟨hm, h⟩

/-- A byte write that answers a next state was onto an erased byte, or STORE_OVERWRITE is set, and wrote it. -/
theorem writeStoreByte_next {s t : State} {addr : Nat} {b : Byte} (h : writeStoreByte addr b s = .next t) :
    (s.store.read addr = erasedByte ∨ s.cfg.storeOverwrite = true) ∧
      t = { s with store := s.store.write addr b, out := .reported .done } := by
  unfold writeStoreByte at h
  split_ifs at h with hw
  injection h with h
  exact ⟨hw, h.symm⟩

/-- The ways an environment action's store can differ from the one before it: not at all, by one byte of the
channel region or of the usable message region, or by one of the two erases. -/
inductive StoreChange (s : State) : Memory → Prop where
  | same : StoreChange s s.store
  | chByte (c k : Nat) (b : Byte) (hc : c < s.cfg.channels) (hk : k < 24) :
      StoreChange s (s.store.write (s.cfg.chByteAddr c k) b)
  | msgByte (k : Nat) (b : Byte) (hk : k < s.cfg.msgUsable) : StoreChange s (s.store.write (s.cfg.msgByteAddr k) b)
  | eraseChannels : StoreChange s (s.store.eraseRange s.cfg.nvmBase s.cfg.chRegionSize)
  | eraseMessage : StoreChange s (s.store.eraseRange s.cfg.msgBase s.cfg.msgUsable)

/-- A programming under way stays inside its record. -/
def ProgramInRecord (c : Config) (p : Option ProgramRun) : Prop :=
  ∀ r, p = some r → r.channel < c.channels ∧ r.offset + r.rest.length = 24

/-- All that an environment action which answers a next state can do: it changes the store in one of the ways
above, the pins, the programming under way and the report, and nothing else. -/
theorem runEnv_next {s t : State} {act : EnvAction} (hp : ProgramInRecord s.cfg s.programming)
    (h : runEnv act s = .next t) :
    StoreChange s t.store ∧ ProgramInRecord s.cfg t.programming ∧
      t = { s with store := t.store, chPins := t.chPins, programming := t.programming, out := t.out } := by
  cases act with
  | programChannel c bytes =>
    simp only [runEnv, programChannel] at h
    obtain ⟨-, h⟩ := storeAction_next h
    split_ifs at h with hc hl <;> injection h with h <;> subst h
    · exact ⟨.same, hp, rfl⟩
    · exact ⟨.same, hp, rfl⟩
    · refine ⟨.same, fun r hr => ?_, rfl⟩
      simp only [State.report_programming, Option.some.injEq] at hr
      subst hr
      exact ⟨Nat.lt_of_not_le hc, by simpa using hl⟩
  | programStep =>
    simp only [runEnv, programStep] at h
    split at h
    · injection h with h; subst h; exact ⟨.same, hp, rfl⟩
    · rename_i p hpp
      obtain ⟨hch, hoff⟩ := hp p hpp
      split at h
      · injection h with h; subst h
        exact ⟨.same, fun r hr => by simp at hr, rfl⟩
      · rename_i b bs hrest
        obtain ⟨-, h⟩ := storeAction_next h
        obtain ⟨-, rfl⟩ := writeStoreByte_next h
        rw [hrest, List.length_cons] at hoff
        refine ⟨.chByte p.channel p.offset b hch (by omega), fun r hr => ?_, rfl⟩
        simp only at hr
        split_ifs at hr
        simp only [Option.some.injEq] at hr
        subst hr
        exact ⟨hch, by simp only; omega⟩
  | writeChByte c k b =>
    simp only [runEnv, writeChByte] at h
    obtain ⟨-, h⟩ := storeAction_next h
    split_ifs at h with hc
    · injection h with h; subst h; exact ⟨.same, hp, rfl⟩
    · obtain ⟨-, rfl⟩ := writeStoreByte_next h
      exact ⟨.chByte c k b (by omega) k.isLt, hp, rfl⟩
  | eraseChannels =>
    simp only [runEnv, eraseChannels] at h
    obtain ⟨-, h⟩ := storeAction_next h
    injection h with h; subst h; exact ⟨.eraseChannels, hp, rfl⟩
  | eraseMessage =>
    simp only [runEnv, eraseMessage] at h
    obtain ⟨-, h⟩ := storeAction_next h
    injection h with h; subst h; exact ⟨.eraseMessage, hp, rfl⟩
  | writeMsgByte k b =>
    simp only [runEnv, writeMsgByte] at h
    obtain ⟨-, h⟩ := storeAction_next h
    split_ifs at h with hk
    · injection h with h; subst h; exact ⟨.same, hp, rfl⟩
    · obtain ⟨-, rfl⟩ := writeStoreByte_next h
      exact ⟨.msgByte k.toNat b (by omega), hp, rfl⟩
  | setPins p => injection h with h; subst h; exact ⟨.same, hp, rfl⟩

/-- The canonical form survives every change of the store. -/
theorem StoreChange.wf {s : State} {m : Memory} (h : StoreChange s m) (hs : s.store.wf) : m.wf := by
  cases h with
  | same => exact hs
  | chByte c k b => exact Memory.write_wf hs _ _
  | msgByte k b => exact Memory.write_wf hs _ _
  | eraseChannels => exact Memory.eraseRange_wf hs _ _
  | eraseMessage => exact Memory.eraseRange_wf hs _ _

/-! ### The step -/

/-- All that a step which answers a next state can be (spec/20_memory.md rule R75). -/
theorem step_next {s t : State} (h : step s = .next t) :
    (s.events = [] ∧ t = s) ∨
    (∃ w es i, s.events = .request w :: es ∧ decode w = .ok i ∧ exec i { s with events := es } = .next t) ∨
    (∃ w es err, s.events = .request w :: es ∧ decode w = .error err ∧
      t = State.raise { s with events := es } .invalidOp) ∨
    (∃ es, s.events = .tick :: es ∧ t = { State.tickEvent { s with events := es } with out := .silent }) ∨
    (∃ es, s.events = .reset :: es ∧ t = State.resetBlock { s with events := es }) ∨
    (∃ act es, s.events = .env act :: es ∧ runEnv act { s with events := es } = .next t) := by
  unfold step runNext at h
  split at h
  · injection h with h; exact .inl ⟨‹_›, h.symm⟩
  · rename_i e es hes
    cases e with
    | request w =>
      simp only [runEvent, runRequest] at h
      split at h
      · exact .inr (.inl ⟨w, es, _, hes, ‹_›, h⟩)
      · injection h with h; exact .inr (.inr (.inl ⟨w, es, _, hes, ‹_›, h.symm⟩))
    | tick => injection h with h; exact .inr (.inr (.inr (.inl ⟨es, hes, h.symm⟩)))
    | reset => injection h with h; exact .inr (.inr (.inr (.inr (.inl ⟨es, hes, h.symm⟩))))
    | env act => exact .inr (.inr (.inr (.inr (.inr ⟨act, es, hes, h⟩))))

end Sys2Proof.Machine
end

