-- ==== Sys2Proof/Laws/Exec.lean ====
section
/-!
SUPPORT. What every instruction leaves alone, how a request word of the spec's tables decodes, and what each kind
of event does as a step.
-/

namespace Sys2Proof

/-! ### Request words with an operand -/

/-- Decoding the word of an operation that uses `a`, written as the number `op << 24 + a << 16`. -/
theorem decode_operandA {base : Nat} {op : Byte} {f : Byte → Instr} (hb : op.toNat * 2 ^ 24 = base)
    (hd : ∀ a, decode (reqWord op a 0) = .ok (f a)) (a : Byte) :
    decode (BitVec.ofNat 32 (base + a.toNat * 2 ^ 16)) = .ok (f a) := by
  have h := ofNat_eq_reqWord op a 0
  rw [show (0 : Half).toNat = 0 from rfl, Nat.add_zero, hb] at h
  rw [h, hd]

/-- Decoding the word of an operation that uses `v`, written as the number `op << 24 + v`. -/
theorem decode_operandV {base : Nat} {op : Byte} {f : Half → Instr} (hb : op.toNat * 2 ^ 24 = base)
    (hd : ∀ v, decode (reqWord op 0 v) = .ok (f v)) (v : Half) :
    decode (BitVec.ofNat 32 (base + v.toNat)) = .ok (f v) := by
  have h := ofNat_eq_reqWord op 0 v
  rw [show (0 : Byte).toNat = 0 from rfl, Nat.zero_mul, Nat.add_zero, hb] at h
  rw [h, hd]

end Sys2Proof

namespace Sys2Proof.Machine

/-! ### What no instruction changes -/

/-- CH.CMD carries out the instruction of its byte. -/
theorem execChCmd_cases (m : Byte) (s : State) :
    execChCmd m s = execChannelSet (cmdOperand m) s ∨ execChCmd m s = execChannelAdd (cmdOperand m) s ∨
      execChCmd m s = execChannelClearIfGt (cmdOperand m) s ∨ execChCmd m s = .next (s.respondCommand false false) := by
  unfold execChCmd
  split
  · exact .inl rfl
  · exact .inr (.inl rfl)
  · exact .inr (.inr (.inl rfl))
  · exact .inr (.inr (.inr rfl))

/-- No instruction changes the parameters, the store, the pins, the programming under way or the events. -/
theorem exec_outside {i : Instr} {s t : State} (h : exec i s = .next t) :
    t.cfg = s.cfg ∧ t.store = s.store ∧ t.chPins = s.chPins ∧ t.programming = s.programming ∧
      t.events = s.events := by
  cases i
  case chCmd m =>
    simp only [exec, execChCmd, execChannelSet, execChannelAdd, execChannelClearIfGt] at h
    split at h <;> (try split_ifs at h) <;> injection h with h <;> subst h <;> exact ⟨rfl, rfl, rfl, rfl, rfl⟩
  all_goals
    simp only [exec, execNop, execTickMask, execTickUnmask, execErrRd, execErrClr, execStatRd, execCrcClr,
      execCrcByte, execCrcRd, execCrcChan, execCrcMsg, execCrcCmpc, execCrcCmpm, execMsgChk, execTmrLdw, execTmrLdm,
      execTmrLde, execTmrRdw, execTmrRdm, execTmrRde, execTmrInit, execTmrArmm, execEdgeTake, execSelIdx, execSelAct,
      execSelNext, execChLatch, execChRd, execChannelSet, execChannelAdd, execChannelClearIfGt, execEndOfMessage,
      execIoIncrement, execIoDecrement, execIoSet, execUnrecognized07, execUnrecognized8, compareCrc_eq] at h
  all_goals try split at h
  all_goals try split_ifs at h
  all_goals first | (injection h with h; subst h) | cases h
  all_goals exact ⟨rfl, rfl, rfl, rfl, rfl⟩

/-! ### Steps -/

theorem step_request {s : State} {w : Word} {es : List Event} {i : Instr} (he : s.events = .request w :: es)
    (hd : decode w = .ok i) : step s = exec i { s with events := es } := by
  simp only [step, runNext, he, runEvent, runRequest, hd]

theorem step_tick {s : State} {es : List Event} (he : s.events = .tick :: es) :
    step s = .next { State.tickEvent { s with events := es } with out := .silent } := by
  simp only [step, runNext, he, runEvent]

theorem step_env {s : State} {es : List Event} {act : EnvAction} (he : s.events = .env act :: es) :
    step s = runEnv act { s with events := es } := by
  simp only [step, runNext, he, runEvent]

/-- A step that goes on leaves the rest of the run to the state it answers. -/
theorem runSteps_succ {s t : State} (n : Nat) (h : step s = .next t) : runSteps (n + 1) s = runSteps n t := by
  simp only [runSteps, h]

/-- A run in two parts. -/
theorem runSteps_add {s t : State} {m : Nat} (n : Nat) (h : runSteps m s = .next t) :
    runSteps (m + n) s = runSteps n t := by
  induction m generalizing s with
  | zero => simp only [runSteps] at h; injection h with h; rw [h, Nat.zero_add]
  | succ m ih =>
    rw [Nat.succ_add]
    simp only [runSteps] at h ⊢
    split at h
    · rename_i u hu; exact ih h
    · cases h
    · cases h

/-! ### The terminator scan and the bank -/

theorem durOk_eq (s : State) : s.durOk = decide (durNat s ≠ 65535) := by
  rw [← toNat_elemDur]
  simp only [State.durOk, sentinel16]
  rw [bne, Bool.eq_iff_iff]
  simp [← BitVec.toNat_inj]

theorem msgOk_eq (s : State) : s.msgOk = decide (bankOk s) := by simp [State.msgOk, durOk_eq, bankOk]

theorem toNat_msgAux (s : State) : s.msgAux.toNat = bankAux s := by simp [State.msgAux, durOk_eq, bankAux]

theorem durNat_lt (s : State) : durNat s < 65536 := by rw [← toNat_elemDur]; exact BitVec.isLt _

theorem elemDur_eq_zero (s : State) : s.elemDur = 0 ↔ durNat s = 0 := by
  rw [← toNat_elemDur, ← BitVec.toNat_inj]
  rfl

end Sys2Proof.Machine
end

