-- ==== Sys2Proof/Laws/PerInstr.lean ====
section
/-!
SUPPORT. Every instruction can be presented: the request word that stands for it is one that the block does not
reject (spec/30_encoding.md rules R91 and R98; a CMD8 byte is carried in the operand of CH.CMD, rule R191).
-/

namespace Sys2Proof.Laws.Presentable

/-- A well-formed instruction has a request word that decodes. -/
def Statement (i : Instr) : Prop := i.wellFormed = true → ∃ j, decode (requestWord i) = .ok j

/-- The word of an operation that uses `a`. -/
theorem of_operandA {i : Instr} {op a : Byte} (f : Byte → Instr) (hw : requestWord i = reqWord op a 0)
    (hd : ∀ w, reqOp w = op → decode w = decodeA f w) : Statement i := fun _ => by
  rw [hw, hd _ (reqOp_reqWord op a 0), decodeA, reqV_reqWord, if_pos rfl]
  exact ⟨_, rfl⟩

/-- The word of an operation that uses `v`. -/
theorem of_operandV {i : Instr} {op : Byte} {v : Half} (f : Half → Instr) (hw : requestWord i = reqWord op 0 v)
    (hd : ∀ w, reqOp w = op → decode w = decodeV f w) : Statement i := fun _ => by
  rw [hw, hd _ (reqOp_reqWord op 0 v), decodeV, reqA_reqWord, if_pos rfl]
  exact ⟨_, rfl⟩

/-- The word that carries a command byte. -/
theorem of_command {i : Instr} {b : Byte} (hw : requestWord i = reqWord 0x34 b 0) : Statement i :=
  of_operandA .chCmd hw fun w h => by rw [decode, h]; rfl

theorem nop : Statement .nop := fun _ => ⟨_, rfl⟩
theorem tickMask : Statement .tickMask := fun _ => ⟨_, rfl⟩
theorem tickUnmask : Statement .tickUnmask := fun _ => ⟨_, rfl⟩
theorem errRd : Statement .errRd := fun _ => ⟨_, rfl⟩
theorem errClr : Statement .errClr := fun _ => ⟨_, rfl⟩
theorem statRd : Statement .statRd := fun _ => ⟨_, rfl⟩
theorem crcClr : Statement .crcClr := fun _ => ⟨_, rfl⟩
theorem crcByte (a : Byte) : Statement (.crcByte a) := of_operandA .crcByte rfl fun w h => by rw [decode, h]; rfl
theorem crcRd : Statement .crcRd := fun _ => ⟨_, rfl⟩
theorem crcChan : Statement .crcChan := fun _ => ⟨_, rfl⟩
theorem crcMsg : Statement .crcMsg := fun _ => ⟨_, rfl⟩
theorem crcCmpc (v : Half) : Statement (.crcCmpc v) := of_operandV .crcCmpc rfl fun w h => by rw [decode, h]; rfl
theorem crcCmpm (v : Half) : Statement (.crcCmpm v) := of_operandV .crcCmpm rfl fun w h => by rw [decode, h]; rfl
theorem msgChk : Statement .msgChk := fun _ => ⟨_, rfl⟩
theorem tmrLdw (v : Half) : Statement (.tmrLdw v) := of_operandV .tmrLdw rfl fun w h => by rw [decode, h]; rfl
theorem tmrLdm (v : Half) : Statement (.tmrLdm v) := of_operandV .tmrLdm rfl fun w h => by rw [decode, h]; rfl
theorem tmrLde (v : Half) : Statement (.tmrLde v) := of_operandV .tmrLde rfl fun w h => by rw [decode, h]; rfl
theorem tmrRdw : Statement .tmrRdw := fun _ => ⟨_, rfl⟩
theorem tmrRdm : Statement .tmrRdm := fun _ => ⟨_, rfl⟩
theorem tmrRde : Statement .tmrRde := fun _ => ⟨_, rfl⟩
theorem tmrInit : Statement .tmrInit := fun _ => ⟨_, rfl⟩
theorem tmrArmm : Statement .tmrArmm := fun _ => ⟨_, rfl⟩
theorem edgeTake : Statement .edgeTake := fun _ => ⟨_, rfl⟩
theorem selIdx (a : Byte) : Statement (.selIdx a) := of_operandA .selIdx rfl fun w h => by rw [decode, h]; rfl
theorem selAct : Statement .selAct := fun _ => ⟨_, rfl⟩
theorem selNext : Statement .selNext := fun _ => ⟨_, rfl⟩
theorem chLatch : Statement .chLatch := fun _ => ⟨_, rfl⟩
theorem chCmd (a : Byte) : Statement (.chCmd a) := of_operandA .chCmd rfl fun w h => by rw [decode, h]; rfl
theorem chRd : Statement .chRd := fun _ => ⟨_, rfl⟩
theorem channelSet (k : Nibble) : Statement (.channelSet k) := of_command rfl
theorem channelAdd (k : Nibble) : Statement (.channelAdd k) := of_command rfl
theorem channelClearIfGt (k : Nibble) : Statement (.channelClearIfGt k) := of_command rfl
theorem endOfMessage (k : Nibble) : Statement (.endOfMessage k) := of_command rfl
theorem ioIncrement (k : Nibble) : Statement (.ioIncrement k) := of_command rfl
theorem ioDecrement (k : Nibble) : Statement (.ioDecrement k) := of_command rfl
theorem ioSet (k : Nibble) : Statement (.ioSet k) := of_command rfl
theorem unrecognized07 (code : Nibble) (k : Nibble) : Statement (.unrecognized07 code k) := of_command rfl
theorem unrecognized8 (k : Nibble) : Statement (.unrecognized8 k) := of_command rfl

end Sys2Proof.Laws.Presentable
end

