-- ==== Sys2Proof/Tests/Slice0.lean ====
section
/-!
SUPPORT. Tests. The expected words, responses and values come from spec/95_test_vectors.md (the vector's name stands
at the test) or are worked out by hand from the encoding tables of spec/30_encoding.md; none is the model's own
answer. The second half shows, for every statement of Certificates/Slice0/Obligations.lean that has hypotheses,
states and operands that meet them.
-/

namespace Sys2Proof.Tests

open Sys2Proof.Machine

/-! ### Ill-formed terms are refused -/

/-- The row UNRECOGNIZED_0_7 has no code 8: that byte is the row UNRECOGNIZED_8. -/
theorem test_wf_code_out_of_row : (Instr.unrecognized07 8 0).wellFormed = false := by decide
theorem test_wf_code_in_row : (Instr.unrecognized07 7 0xF).wellFormed = true := by decide

/-- One parameter record for each constraint of rule R6 that it breaks. -/
theorem test_config_no_channel : ¬ { Config.default with channels := 0 }.Valid := by decide
theorem test_config_too_many_channels : ¬ { Config.default with channels := 101 }.Valid := by decide
theorem test_config_no_page : ¬ { Config.default with pageSize := 0 }.Valid := by decide
theorem test_config_base_not_on_a_page : ¬ { Config.default with nvmBase := 3, pageSize := 2 }.Valid := by decide
theorem test_config_message_too_small : ¬ { Config.default with msgSize := 17 }.Valid := by decide
theorem test_config_message_too_large : ¬ { Config.default with msgSize := 65537, addrBits := 20 }.Valid := by decide
theorem test_config_addresses_too_narrow : ¬ { Config.default with addrBits := 7 }.Valid := by decide

/-! ### Decoding, one word for each row of the table -/

-- REQ32, rule R91: op in bits 31:24, a in bits 23:16, v in bits 15:0; op from rule R95, written in binary.
theorem test_decode_nop : decode 0b00000000_00000000_0000000000000000 = .ok .nop := by decide
theorem test_decode_tickMask : decode 0b00000001_00000000_0000000000000000 = .ok .tickMask := by decide
theorem test_decode_tickUnmask : decode 0b00000010_00000000_0000000000000000 = .ok .tickUnmask := by decide
theorem test_decode_errRd : decode 0b00000011_00000000_0000000000000000 = .ok .errRd := by decide
theorem test_decode_errClr : decode 0b00000100_00000000_0000000000000000 = .ok .errClr := by decide
theorem test_decode_statRd : decode 0b00000101_00000000_0000000000000000 = .ok .statRd := by decide
theorem test_decode_crcClr : decode 0b00010000_00000000_0000000000000000 = .ok .crcClr := by decide
theorem test_decode_crcByte : decode 0b00010001_00110001_0000000000000000 = .ok (.crcByte 0x31) := by decide
theorem test_decode_crcRd : decode 0b00010010_00000000_0000000000000000 = .ok .crcRd := by decide
theorem test_decode_crcChan : decode 0b00010011_00000000_0000000000000000 = .ok .crcChan := by decide
theorem test_decode_crcMsg : decode 0b00010100_00000000_0000000000000000 = .ok .crcMsg := by decide
theorem test_decode_crcCmpc : decode 0b00010101_00000000_0101101001010100 = .ok (.crcCmpc 0x5A54) := by decide
theorem test_decode_crcCmpm : decode 0b00010110_00000000_1110010101110011 = .ok (.crcCmpm 0xE573) := by decide
theorem test_decode_msgChk : decode 0b00010111_00000000_0000000000000000 = .ok .msgChk := by decide
theorem test_decode_tmrLdw : decode 0b00100000_00000000_1111111111111111 = .ok (.tmrLdw 0xFFFF) := by decide
theorem test_decode_tmrLdm : decode 0b00100001_00000000_0000000001100100 = .ok (.tmrLdm 100) := by decide
theorem test_decode_tmrLde : decode 0b00100010_00000000_0000000000001010 = .ok (.tmrLde 10) := by decide
theorem test_decode_tmrRdw : decode 0b00100011_00000000_0000000000000000 = .ok .tmrRdw := by decide
theorem test_decode_tmrRdm : decode 0b00100100_00000000_0000000000000000 = .ok .tmrRdm := by decide
theorem test_decode_tmrRde : decode 0b00100101_00000000_0000000000000000 = .ok .tmrRde := by decide
theorem test_decode_tmrInit : decode 0b00100110_00000000_0000000000000000 = .ok .tmrInit := by decide
theorem test_decode_tmrArmm : decode 0b00100111_00000000_0000000000000000 = .ok .tmrArmm := by decide
theorem test_decode_edgeTake : decode 0b00101000_00000000_0000000000000000 = .ok .edgeTake := by decide
theorem test_decode_selIdx : decode 0b00110000_11111111_0000000000000000 = .ok (.selIdx 255) := by decide
theorem test_decode_selAct : decode 0b00110001_00000000_0000000000000000 = .ok .selAct := by decide
theorem test_decode_selNext : decode 0b00110010_00000000_0000000000000000 = .ok .selNext := by decide
theorem test_decode_chLatch : decode 0b00110011_00000000_0000000000000000 = .ok .chLatch := by decide
theorem test_decode_chCmd : decode 0b00110100_11001001_0000000000000000 = .ok (.chCmd 0xC9) := by decide
theorem test_decode_chRd : decode 0b00110101_00000000_0000000000000000 = .ok .chRd := by decide

-- CMD8, rule R96: the code in bits 7:4, the operand in bits 3:0, as the host's table numbers the bits.
theorem test_decode_endOfMessage : decodeTableWord 8 0b1111_1010 = some (.endOfMessage 0xA) := by decide
theorem test_decode_ioIncrement : decodeTableWord 8 0b1110_0011 = some (.ioIncrement 3) := by decide
theorem test_decode_ioDecrement : decodeTableWord 8 0b1101_0000 = some (.ioDecrement 0) := by decide
theorem test_decode_channelSet : decodeTableWord 8 0b1100_1001 = some (.channelSet 9) := by decide
theorem test_decode_channelAdd : decodeTableWord 8 0b1011_0010 = some (.channelAdd 2) := by decide
theorem test_decode_ioSet : decodeTableWord 8 0b1010_0101 = some (.ioSet 5) := by decide
theorem test_decode_channelClearIfGt : decodeTableWord 8 0b1001_0011 = some (.channelClearIfGt 3) := by decide
theorem test_decode_unrecognized8 : decodeTableWord 8 0b1000_1111 = some (.unrecognized8 0xF) := by decide
theorem test_decode_unrecognized07 : decodeTableWord 8 0b0001_1000 = some (.unrecognized07 1 8) := by decide
theorem test_decode_table_word : decodeTableWord 32 0x22000004 = some (.tmrLde 4) := by decide

-- V6: each is answered 0x03000000.
theorem test_reject_v_of_nop : decode 0x00000001 = .error (.unusedField 0x00) := by decide
theorem test_reject_a_of_crcRd : decode 0x12010000 = .error (.unusedField 0x12) := by decide
theorem test_reject_v_of_crcByte : decode 0x11310001 = .error (.unusedField 0x11) := by decide
theorem test_reject_a_of_tmrLdw : decode 0x20050000 = .error (.unusedField 0x20) := by decide
theorem test_reject_op_06 : decode 0x06000000 = .error (.reservedOpcode 0x06) := by decide
theorem test_reject_op_18 : decode 0x18000000 = .error (.reservedOpcode 0x18) := by decide
theorem test_reject_op_29 : decode 0x29000000 = .error (.reservedOpcode 0x29) := by decide
theorem test_reject_op_36 : decode 0x36000000 = .error (.reservedOpcode 0x36) := by decide
theorem test_reject_op_FF : decode 0xFF000000 = .error (.reservedOpcode 0xFF) := by decide

/-! ### One step of each instruction -/

/-- The state of a next outcome. -/
def nextState : Result → Option State
  | .next t => some t
  | .fault _ => none
  | .refused _ => none

/-- The response word of a step. -/
def reply (r : Result) : Option Word :=
  match nextState r with
  | some t =>
    match t.out with
    | .answered w _ => some w
    | .silent => none
    | .reported _ => none
  | none => none

/-- The step that carries out a request word. -/
def ask (w : Word) (s : State) : Result := step (s.pushEvent (.request w))

/-- Store cells from `base` up, erased bytes left out. -/
def cells (base : Nat) (bytes : List Byte) : Memory :=
  ((List.range bytes.length).zip bytes).filterMap fun p => if p.2 = 0xFF then none else some (base + p.1, p.2)

def rec0 : List Byte :=
  [0x00, 0x00, 0x00, 0x10, 0x00, 0x00, 0x00, 0x21, 0x00, 0x00, 0x00, 0x32,
   0x00, 0x00, 0x00, 0x43, 0x00, 0x00, 0x00, 0x54, 0x00, 0x58, 0x00, 0x05]

def rec1 : List Byte :=
  [0x11, 0x11, 0x11, 0x10, 0x22, 0x22, 0x22, 0x21, 0x33, 0x33, 0x33, 0x32,
   0x44, 0x44, 0x44, 0x43, 0x55, 0x55, 0x55, 0x54, 0x00, 0x58, 0x00, 0x05]

/-- BANK, after its 6 bytes of mode, ramp, element duration and delay. -/
def bankTail : List Byte := [0x00, 0x00, 0x00, 0x00, 0x00, 0x00, 0x00, 0x00, 0xB0, 0x80, 0x18, 0xFF]

/-- A bank with the element duration and the delay given. -/
def bank (d0 d1 : Byte) : List Byte := [0x01, 0x05, d0, d1, 0x00, 0x64] ++ bankTail

/-- Reset state over the store of program P3: channels 0 and 1 programmed, channel 2 erased, BANK at 72. -/
def filled : State := { State.reset with store := cells 0 (rec0 ++ rec1) ++ cells 72 (bank 0x00 0x0A) }

/-- The same with another element duration in the bank. -/
def withDuration (d0 d1 : Byte) : State :=
  { State.reset with store := cells 0 (rec0 ++ rec1) ++ cells 72 (bank d0 d1) }

-- V5
theorem test_nop : reply (ask 0x00000000 filled) = some 0x00000000 := by decide
theorem test_statRd_reset : reply (ask 0x05000000 State.reset) = some 0x000000D8 := by decide
theorem test_chRd_reset : reply (ask 0x35000000 State.reset) = some 0x00001000 := by decide
theorem test_tickMask :
    (nextState (ask 0x01000000 { filled with tickMask := false })).map (·.tickMask) = some true := by decide
theorem test_tickUnmask_pending : reply (ask 0x02000000 { filled with tickPending := true }) = some 0x00000001 := by
  decide
theorem test_tickUnmask_delivers :
    (nextState (ask 0x02000000 { filled with tickPending := true, waitTimer := 5 })).map
      (fun t => (t.waitTimer, t.edgeFlag, t.tickPending)) = some (4, true, false) := by decide
theorem test_errRd : reply (ask 0x03000000 { filled with errFlag := true }) = some 0x00000001 := by decide
theorem test_errClr :
    (nextState (ask 0x04000000 { filled with errFlag := true })).map (fun t => (t.errFlag, t.out)) =
      some (false, .answered 0x00000001 none) := by decide
theorem test_rejected_word : reply (ask 0xFF000000 filled) = some 0x03000000 := by decide

-- V2 and P2
theorem test_crcClr : (nextState (ask 0x10000000 { filled with crcAcc := 0x2672 })).map (·.crcAcc) = some 0 := by
  decide
theorem test_crcByte_first : reply (ask 0x11310000 filled) = some 0x00002672 := by decide
theorem test_crcByte_second : reply (ask 0x11320000 { filled with crcAcc := 0x2672 }) = some 0x000020B5 := by
  decide
theorem test_crcRd : reply (ask 0x12000000 { filled with crcAcc := 0x2672 }) = some 0x00002672 := by decide
theorem test_crcChan_erased : reply (ask 0x13000000 State.reset) = some 0x000083E0 := by decide +kernel
theorem test_crcChan_filled : reply (ask 0x13000000 filled) = some 0x0000F845 := by decide +kernel
theorem test_crcMsg : reply (ask 0x14000000 filled) = some 0x0000E573 := by decide +kernel
theorem test_crcMsg_none :
    (nextState (ask 0x14000000 { State.reset with crcAcc := 0x2672 })).map
      (fun t => (t.crcAcc, t.errFlag, t.out)) = some (0x2672, false, .answered 0x02000000 none) := by decide
theorem test_crcCmpc_match :
    (nextState (ask 0x1500F845 { filled with errFlag := true })).map (fun t => (t.errFlag, t.out)) =
      some (true, .answered 0x0000F845 none) := by decide +kernel
theorem test_crcCmpc_mismatch :
    (nextState (ask 0x1500F846 filled)).map (fun t => (t.errFlag, t.crcAcc, t.out)) =
      some (true, 0xF845, .answered 0x0100F845 none) := by decide +kernel
theorem test_crcCmpm_mismatch : reply (ask 0x1600E574 filled) = some 0x0100E573 := by decide +kernel
theorem test_crcCmpm_none :
    (nextState (ask 0x16001234 { State.reset with crcAcc := 0x2672 })).map
      (fun t => (t.crcAcc, t.errFlag, t.out)) = some (0x2672, true, .answered 0x02000000 none) := by decide
theorem test_msgChk :
    (nextState (ask 0x17000000 filled)).map (fun t => (t.msgValid, t.out)) =
      some (true, .answered 0x00030012 none) := by decide
theorem test_msgChk_header_pair_does_not_count :
    reply (ask 0x17000000 { State.reset with store := cells 72 [0x18, 0xFF, 0x00, 0x0A, 0x00, 0x64, 0x00, 0x00,
      0x00, 0x00, 0x00, 0x00, 0x00, 0x00, 0x80] }) = some 0x02020000 := by decide

-- V3
theorem test_tmrLdw : reply (ask 0x2000FFFF filled) = some 0x0000FFFF := by decide
theorem test_tmrLdm :
    (nextState (ask 0x21000064 filled)).map (fun t => (t.messageTimer, t.waitTimer)) = some (100, 0) := by
  decide
theorem test_tmrLde_keeps_the_edge :
    (nextState (ask 0x22000004 { filled with elemTimer := 10, elemReload := 10, edgeFlag := true })).map
      (fun t => (t.elemTimer, t.elemReload, t.edgeFlag)) = some (4, 4, true) := by decide
theorem test_tmrRdw : reply (ask 0x23000000 { filled with waitTimer := 5 }) = some 0x00000005 := by decide
theorem test_tmrRdm : reply (ask 0x24000000 { filled with messageTimer := 60 }) = some 0x0000003C := by
  decide
theorem test_tmrRde : reply (ask 0x25000000 { filled with elemTimer := 7, elemReload := 10 }) = some 0x00000007 := by
  decide
theorem test_tmrInit :
    (nextState (ask 0x26000000 { filled with edgeFlag := true })).map
      (fun t => (t.elemTimer, t.elemReload, t.delayReload, t.edgeFlag, t.out)) =
      some (10, 10, 100, false, .answered 0x0003000A none) := by decide
theorem test_tmrInit_erased :
    (nextState (ask 0x26000000 { State.reset with elemTimer := 6, elemReload := 7 })).map
      (fun t => (t.elemTimer, t.elemReload, t.delayReload, t.out)) =
      some (6, 7, 0, .answered 0x0200FFFF none) := by decide
theorem test_tmrArmm : reply (ask 0x27000000 { filled with delayReload := 100 }) = some 0x00000064 := by
  decide
theorem test_edgeTake :
    (nextState (ask 0x28000000 { filled with edgeFlag := true })).map (fun t => (t.edgeFlag, t.out)) =
      some (false, .answered 0x00000001 none) := by decide
/-- Reset state with ticks unmasked. -/
def ticking : State := { State.reset with tickMask := false }

/-- V3.12, the second tick: the message timer and the element timer expire, the element timer is reloaded. -/
theorem test_tick :
    (nextState (step ({ ticking with waitTimer := 2, messageTimer := 1, elemTimer := 1, elemReload := 2 }.pushEvent .tick))).map
      (fun t => (t.waitTimer, t.messageTimer, t.elemTimer, t.edgeFlag)) = some (1, 0, 2, true) := by decide

-- V4 and P4
/-- V4.4: 5 mod 3 = 2 is empty, channel 0 answers. -/
theorem test_selIdx_fallback :
    (nextState (ask 0x30050000 filled)).map (·.out) =
      some (.answered 0x00010200 (some (Record.mk 0x10 0x21 0x32 0x43 0x54 0x00580005))) := by decide
/-- V4.3 and V4.5: 4 mod 3 = 1, in little-endian order. -/
theorem test_selIdx_little_endian :
    (nextState (ask 0x30040000 { filled with cfg := { Config.default with regByteOrder := .little } })).map (·.out) =
      some (.answered 0x00000101 (some
        (Record.mk 0x10111111 0x21222222 0x32333333 0x43444444 0x54555555 0x05005800))) := by decide
theorem test_selAct_erased :
    (nextState (ask 0x31000000 { State.reset with cfg := { Config.default with channels := 1 } })).map
      (fun t => (t.reloadReq, t.out)) =
      some (false, .answered 0x00030000 (some (Record.mk 0xFFFFFFFF 0xFFFFFFFF 0xFFFFFFFF 0xFFFFFFFF 0xFFFFFFFF
        0xFFFFFFFF))) := by decide
/-- 15 + 1 wraps to 0 before the index is reduced: channel 0, not 16 mod 3. -/
theorem test_selNext_wraps : reply (ask 0x32000000 { filled with chBase := 0xF }) = some 0x00000000 := by
  decide
theorem test_chLatch :
    (nextState (ask 0x33000000 { filled with chPins := 5, chDelta := 2, reloadReq := false })).map
      (fun t => (t.chBase, t.chDelta, t.out)) = some (5, 2, .answered 0x00001725 none) := by decide
theorem test_chRd : reply (ask 0x35000000 { filled with chDelta := 2, reloadReq := false }) = some 0x00000220 := by
  decide
theorem test_channelSet : reply (ask 0x34C90000 { filled with chBase := 5, chDelta := 2 }) = some 0x00031909 := by
  decide
theorem test_channelAdd_wraps : reply (ask 0x34B50000 { filled with chDelta := 14 }) = some 0x00031330 := by
  decide
theorem test_channelClearIfGt_greater :
    reply (ask 0x34930000 { filled with chBase := 3, chDelta := 5, reloadReq := false }) = some 0x00031303 := by
  decide
theorem test_channelClearIfGt_equal :
    reply (ask 0x34930000 { filled with chDelta := 3, reloadReq := false }) = some 0x00010330 := by decide
theorem test_endOfMessage : reply (ask 0x34FF0000 { filled with chBase := 0xE, reloadReq := false }) =
    some 0x00000E0E := by decide
theorem test_ioIncrement : reply (ask 0x34E30000 filled) = some 0x00001000 := by decide
theorem test_ioDecrement : reply (ask 0x34D00000 filled) = some 0x00001000 := by decide
theorem test_ioSet : reply (ask 0x34AF0000 filled) = some 0x00001000 := by decide
theorem test_unrecognized07 : reply (ask 0x347F0000 filled) = some 0x00001000 := by decide
theorem test_unrecognized8 : reply (ask 0x348F0000 filled) = some 0x00001000 := by decide

/-- A table row's bits run as the very next step: a CMD8 row in the CH.CMD that carries it. -/
theorem test_withFetchWord_cmd8 : reply (step (State.reset.withFetchWord 8 0xC9)) = some 0x00031909 := by
  decide
theorem test_withFetchWord_req32 : reply (step (State.reset.withFetchWord 32 0x22000004)) = some 0x00000004 := by
  decide

/-! ### The store -/

/-- V7.1: channel 1 at 24, its R5 at 44, the message region at 72, its usable part up to offset 61. -/
theorem test_layout :
    (Config.default.chByteAddr 1 0, Config.default.chByteAddr 1 20, Config.default.msgBase, Config.default.msgUsable) =
      (24, 44, 72, 62) := by decide
/-- V7.6. -/
theorem test_reserved_byte_not_written :
    (nextState (runEnv (.writeMsgByte 62 0) State.reset)).map (fun t => (t.store, t.out)) =
      some ([], .reported .rejectedIndex) := by decide
/-- V7.2 and V7.3. -/
theorem test_no_such_channel :
    (nextState (runEnv (.programChannel 3 rec0) State.reset)).map (·.out) =
      some (.reported (.rejected .invalidChannelIndex)) := by decide
theorem test_truncated_record :
    (nextState (runEnv (.programChannel 1 (rec0.take 23)) State.reset)).map (·.out) =
      some (.reported (.rejected .storeWriteTruncated)) := by decide
/-- InvalidChannelIndex is raised by ENV.PROGRAM_CHANNEL only (rule R93). -/
theorem test_no_such_channel_byte :
    (nextState (runEnv (.writeChByte 3 0 0) State.reset)).map (fun t => (t.store, t.out)) =
      some ([], .reported .rejectedIndex) := by decide
/-- Writing the value an unlisted address reads as removes the entry. -/
theorem test_write_erased_value : Memory.write [(5, 0x01), (9, 0x02)] 5 0xFF = [(9, 0x02)] := by decide
theorem test_reset_memory_canonical : State.reset.store.wf := by decide

/-! ### Hypotheses that are met

One theorem or more for each statement that has hypotheses, named after it; the clauses of a statement at boundary
values of their ranges. -/

/-- The smallest bank with a terminator: `MSG_SIZE` 18, the pair at offsets 14 and 15. -/
def smallBank : State :=
  { State.reset with
    cfg := { Config.default with msgSize := 18 }
    store := cells 72 [0x01, 0x05, 0x00, 0x0A, 0x00, 0x64, 0, 0, 0, 0, 0, 0, 0, 0, 0x18, 0xF0] }

/-- `MSG_SIZE` 20 with the pair at the last usable offsets, 16 and 17 (V2.21). -/
def lateBank : State :=
  { State.reset with
    cfg := { Config.default with msgSize := 20 }
    store := cells 72 [0x01, 0x05, 0x00, 0x0A, 0x00, 0x64, 0, 0, 0, 0, 0, 0, 0, 0, 0xAA, 0xAA, 0x18, 0xFF] }

/-- A state whose duration-0 loads are refused. -/
def strictZero (s : State) : State := { s with cfg := { s.cfg with zeroElemOk := false } }

/-- A state that remembers no masked tick. -/
def noPending (s : State) : State := { s with cfg := { s.cfg with maskPendingDepth := 0 } }

/-- A state with the element timer loaded with `p` and ticks unmasked. -/
def loaded (p : Half) (es : List Event) : State := { ticking with elemTimer := p, elemReload := p, events := es }

theorem witness_NopHasNoEffect_low : (0x00000001 : Word).toNat < 2 ^ 24 ∧ (0x00000001 : Word) ≠ 0 := by decide
theorem witness_NopHasNoEffect_high : (0x00FFFFFF : Word).toNat < 2 ^ 24 ∧ (0x00FFFFFF : Word) ≠ 0 := by decide

theorem witness_TickUnmaskDeliversThePendingTick_none : State.reset.tickPending = false := rfl
theorem witness_TickUnmaskDeliversThePendingTick_one : { State.reset with tickPending := true }.tickPending = true :=
  rfl

theorem witness_CrcOfTheMessageRegion_none : State.reset.termScan = none := by decide
theorem witness_CrcOfTheMessageRegion_shortest : smallBank.termScan = some 16 := by decide
theorem witness_CrcOfTheMessageRegion_last_pair : lateBank.termScan = some 18 := by decide
theorem witness_CompareOfTheMessageCrc_none : State.reset.termScan = none := by decide
theorem witness_CompareOfTheMessageCrc_some : filled.termScan = some 18 := by decide

theorem witness_MessageBankCheck_smallest : smallBank.cfg.Valid := by decide
theorem witness_MessageBankCheck_largest :
    { State.reset with cfg := { Config.default with msgSize := 65536, addrBits := 17 } }.cfg.Valid := by decide

theorem witness_ElementTimerIsLoadedWithItsReload_one :
    (1 : Half) ≠ 0 ∨ (strictZero State.reset).cfg.zeroElemOk = true := by decide
theorem witness_ElementTimerIsLoadedWithItsReload_zero : (0 : Half) ≠ 0 ∨ State.reset.cfg.zeroElemOk = true := by
  decide
theorem witness_ZeroDurationIsRefusedOnlyWhereSwitchedOff_lde :
    (0 : Half) = 0 ∧ (strictZero State.reset).cfg.zeroElemOk = false := by decide
theorem witness_ZeroDurationIsRefusedOnlyWhereSwitchedOff_init :
    (strictZero (withDuration 0 0)).termScan.isSome = true ∧ durNat (strictZero (withDuration 0 0)) = 0 ∧
      (strictZero (withDuration 0 0)).cfg.zeroElemOk = false := by decide

theorem witness_TimingConfigurationIsLoadedFromTheBank_erased : ¬ bankOk State.reset := by decide
theorem witness_TimingConfigurationIsLoadedFromTheBank_unprogrammed : ¬ bankOk (withDuration 0xFF 0xFF) := by
  decide
theorem witness_TimingConfigurationIsLoadedFromTheBank_longest :
    bankOk (withDuration 0xFF 0xFE) ∧
      (durNat (withDuration 0xFF 0xFE) ≠ 0 ∨ (withDuration 0xFF 0xFE).cfg.zeroElemOk = true) := by decide
theorem witness_TimingConfigurationIsLoadedFromTheBank_zero :
    bankOk (withDuration 0 0) ∧ (durNat (withDuration 0 0) ≠ 0 ∨ (withDuration 0 0).cfg.zeroElemOk = true) := by
  decide

theorem witness_TickEventIsDeliveredOrRemembered_remembered :
    (filled.pushEvent .tick).events = .tick :: [] ∧ (filled.pushEvent .tick).tickMask = true ∧
      (filled.pushEvent .tick).cfg.maskPendingDepth = 1 := by decide
theorem witness_TickEventIsDeliveredOrRemembered_delivered :
    (ticking.pushEvent .tick).events = .tick :: [] ∧ (ticking.pushEvent .tick).tickMask = false := by decide

/-- The hypotheses of `Obligations.ElementPeriodIsTheReloadValue`. -/
abbrev PeriodStart (s : State) (n : Nat) : Prop :=
  s.tickMask = false ∧ s.elemReload ≠ 0 ∧ s.elemTimer = s.elemReload ∧ s.edgeFlag = false ∧
    s.events = List.replicate n .tick

theorem witness_ElementPeriodIsTheReloadValue_one : PeriodStart (loaded 1 []) 0 := by decide
theorem witness_ElementPeriodIsTheReloadValue_three : PeriodStart (loaded 3 [.tick, .tick, .tick]) 3 := by decide
theorem witness_ElementPeriodIsTheReloadValue_longest : PeriodStart (loaded 0xFFFF [.tick]) 1 := by decide

theorem witness_WaitExpiresAfterItsTicks_zero :
    ∃ s : State, s.tickMask = false ∧ s.events =
      .request (BitVec.ofNat 32 (0x20000000 + (0 : Half).toNat)) :: (List.replicate 0 .tick ++ [.request 0x23000000]) :=
  ⟨{ ticking with events := [.request 0x20000000, .request 0x23000000] }, by decide⟩
theorem witness_WaitExpiresAfterItsTicks_two :
    ∃ s : State, s.tickMask = false ∧ s.events =
      .request (BitVec.ofNat 32 (0x20000000 + (2 : Half).toNat)) :: (List.replicate 3 .tick ++ [.request 0x23000000]) :=
  ⟨{ ticking with events := [.request 0x20000002, .tick, .tick, .tick, .request 0x23000000] }, by decide⟩

theorem witness_MaskedTicksBeyondTheFirstAreLost_remembered :
    ∃ s : State, s.tickMask = true ∧ s.cfg.maskPendingDepth = 1 ∧
      s.events = List.replicate (2 + 1) .tick ++ .request 0x02000000 :: [.tick] :=
  ⟨{ filled with events := [.tick, .tick, .tick, .request 0x02000000, .tick] }, by decide⟩
theorem witness_MaskedTicksBeyondTheFirstAreLost_depth_zero :
    ∃ s : State, s.tickMask = true ∧ s.cfg.maskPendingDepth = 0 ∧ s.events = List.replicate (0 + 1) .tick ++ [] :=
  ⟨(noPending filled).pushEvent .tick, by decide⟩
theorem witness_MaskedTicksBeyondTheFirstAreLost_depth_zero_unmasked :
    ∃ s : State, s.tickMask = true ∧ s.cfg.maskPendingDepth = 0 ∧ s.tickPending = false ∧
      s.events = List.replicate (1 + 1) .tick ++ .request 0x02000000 :: [] :=
  ⟨{ noPending filled with events := [.tick, .tick, .request 0x02000000] }, by decide⟩

theorem witness_EdgeIsSeenOnceInEitherOrder_tick_first :
    ∃ s : State, s.tickMask = false ∧ s.elemTimer.toNat ≤ 1 ∧ s.edgeFlag = false ∧
      s.events = [.tick, .request 0x28000000, .request 0x28000000] :=
  ⟨loaded 1 [.tick, .request 0x28000000, .request 0x28000000], by decide⟩
theorem witness_EdgeIsSeenOnceInEitherOrder_take_first :
    ∃ s : State, s.tickMask = false ∧ s.elemTimer.toNat ≤ 1 ∧ s.edgeFlag = false ∧
      s.events = [.request 0x28000000, .tick, .request 0x28000000, .request 0x28000000] :=
  ⟨loaded 0 [.request 0x28000000, .tick, .request 0x28000000, .request 0x28000000], by decide⟩

/-- The events of `Obligations.BytewiseCrcEqualsRegionCrc`. -/
def byteRequests (bytes : List Byte) : List Event :=
  .request 0x10000000 :: (bytes.map (fun b => Event.request (BitVec.ofNat 32 (0x11000000 + b.toNat * 2 ^ 16))) ++
    [.request 0x12000000])

theorem witness_BytewiseCrcEqualsRegionCrc_empty :
    { filled with events := [.request 0x10000000, .request 0x12000000] }.events = byteRequests [] := by decide
theorem witness_BytewiseCrcEqualsRegionCrc_channels :
    { filled with events := byteRequests (chanBytes filled) }.events = byteRequests (chanBytes filled) ∧
      chanBytes filled = chanBytes { filled with events := byteRequests (chanBytes filled) } := ⟨rfl, rfl⟩
theorem witness_BytewiseCrcEqualsRegionCrc_bank :
    { filled with events := byteRequests (bankBytes filled 18) }.events = byteRequests (bankBytes filled 18) ∧
      { filled with events := byteRequests (bankBytes filled 18) }.termScan = some 18 ∧
      bankBytes filled 18 = bankBytes { filled with events := byteRequests (bankBytes filled 18) } 18 :=
  ⟨rfl, by decide, rfl⟩

theorem witness_CrcIsLinearWithZeroResidue : [(0x12 : Byte), 0x34].length = [(0xAB : Byte), 0xCD].length := rfl
theorem witness_CrcDetectsEverySingleBitError : 0 < 8 ∧ 7 < 8 := by decide

theorem witness_ChannelRegisterIsItsFourBytes_big : filled.cfg.regByteOrder = .big := rfl
theorem witness_ChannelRegisterIsItsFourBytes_little :
    { filled with cfg := { Config.default with regByteOrder := .little } }.cfg.regByteOrder = .little := rfl

theorem witness_SelectFallsBackOneLevel_empty :
    0 < filled.cfg.channels ∧ filled.chanReg (5 % filled.cfg.channels) 5 = 0xFFFFFFFF := by decide
theorem witness_SelectFallsBackOneLevel_programmed :
    0 < filled.cfg.channels ∧ filled.chanReg (4 % filled.cfg.channels) 5 ≠ 0xFFFFFFFF := by decide

/-- The two branches of `Obligations.ChannelClearIfGreaterClearsTheDelta`, at the boundary. -/
theorem witness_ChannelClearIfGreaterClearsTheDelta_greater :
    (3 : Nibble).toNat < { filled with chDelta := 4 }.chDelta.toNat := by decide
theorem witness_ChannelClearIfGreaterClearsTheDelta_equal :
    ¬ (3 : Nibble).toNat < { filled with chDelta := 3 }.chDelta.toNat := by decide

/-- The hypothesis of `Obligations.CommandsWithoutEffect`. -/
abbrev WithoutEffect (i : Instr) : Prop :=
  ∃ code k : Nibble, i = .endOfMessage k ∨ i = .ioIncrement k ∨ i = .ioDecrement k ∨ i = .ioSet k ∨
    i = .unrecognized07 code k ∨ i = .unrecognized8 k

theorem witness_CommandsWithoutEffect_endOfMessage : WithoutEffect (.endOfMessage 0xF) := ⟨0, 0xF, by decide⟩
theorem witness_CommandsWithoutEffect_ioIncrement : WithoutEffect (.ioIncrement 0) := ⟨0, 0, by decide⟩
theorem witness_CommandsWithoutEffect_ioDecrement : WithoutEffect (.ioDecrement 0) := ⟨0, 0, by decide⟩
theorem witness_CommandsWithoutEffect_ioSet : WithoutEffect (.ioSet 5) := ⟨0, 5, by decide⟩
theorem witness_CommandsWithoutEffect_unrecognized07 : WithoutEffect (.unrecognized07 7 0xF) := ⟨7, 0xF, by decide⟩
theorem witness_CommandsWithoutEffect_unrecognized8 : WithoutEffect (.unrecognized8 0) := ⟨0, 0, by decide⟩

theorem witness_CommandsWithoutEffect_byte :
    (0xFF : Byte).toNat / 16 ∉ [0xC, 0xB, 0x9] ∧ (0x8F : Byte).toNat / 16 ∉ [0xC, 0xB, 0x9] ∧
      (0xA0 : Byte).toNat / 16 ∉ [0xC, 0xB, 0x9] := by decide

theorem witness_DecodeOfEncodeIsTheInstruction : (Instr.unrecognized07 7 0xF).wellFormed = true := by decide
theorem witness_EncodeOfDecodeIsTheWord_req32 : decodeEncoded (.req32 0x30FF0000) = .ok (.selIdx 0xFF) := by decide
theorem witness_EncodeOfDecodeIsTheWord_cmd8 : decodeEncoded (.cmd8 0x7F) = .ok (.unrecognized07 7 0xF) := by decide

theorem witness_RejectedWordsAnswerInvalidOp_reserved :
    ∃ (s : State) (es : List Event), s.events = .request 0x06000000 :: es ∧
      decode 0x06000000 = .error (.reservedOpcode 0x06) := ⟨filled.pushEvent (.request 0x06000000), [], by decide⟩
theorem witness_RejectedWordsAnswerInvalidOp_unused :
    ∃ (s : State) (es : List Event), s.events = .request 0x12010000 :: es ∧
      decode 0x12010000 = .error (.unusedField 0x12) := ⟨filled.pushEvent (.request 0x12010000), [], by decide⟩

theorem witness_StepCarriesOutTheRequest_decoded :
    ∃ (s : State) (es : List Event), s.events = .request 0x12000000 :: es ∧ decode 0x12000000 = .ok .crcRd :=
  ⟨filled.pushEvent (.request 0x12000000), [], by decide⟩
theorem witness_StepCarriesOutTheRequest_command : (Instr.channelSet 9).wellFormed = true := by decide

theorem witness_ResetPutsEveryElementAtItsValue :
    { filled with crcAcc := 0x1234, tickMask := false, events := [.reset, .request 0x05000000, .request 0x35000000] }.events =
      [.reset, .request 0x05000000, .request 0x35000000] := by decide

/-- A state that meets the invariant: ticks masked, a duration loaded, a programming half-way, an event to come. -/
def halfway (e : Event) : State :=
  { filled with
    elemTimer := 3
    elemReload := 10
    programming := some { channel := 2, offset := 23, rest := [0x05] }
    events := [e] }

theorem witness_EveryStepKeepsTheInvariant :
    (halfway (.env .programStep)).Inv ∧ ∃ t, step (halfway (.env .programStep)) = .next t := by
  refine ⟨⟨by decide, by decide, by decide, by decide, by decide, by decide, by decide, ?_⟩, _, rfl⟩
  rintro p hp
  injection hp with hp
  subst hp
  decide

theorem witness_OnlyTheEnvironmentWritesTheStore_block :
    (∃ t, step (halfway .tick) = .next t) ∧ ∀ act : EnvAction, ¬ (halfway .tick).nextIs (.env act) :=
  ⟨⟨_, rfl⟩, fun act h => by cases h⟩
theorem witness_OnlyTheEnvironmentWritesTheStore_env :
    (∃ t, step (halfway (.env (.setPins 5))) = .next t) ∧
      ∃ act : EnvAction, (halfway (.env (.setPins 5))).nextIs (.env act) := ⟨⟨_, rfl⟩, _, rfl⟩

/-- A step that is no reset changes the element that `f` reads. -/
def changes {α : Type} [DecidableEq α] (f : State → α) (s : State) : Bool :=
  match nextState (step s) with
  | some t => decide (s.events.head? ≠ some .reset) && decide (f t ≠ f s)
  | none => false

theorem witness_ElementsAreWrittenOnlyByTheirWriters_crcAcc :
    changes (·.crcAcc) (filled.pushEvent (.request 0x11310000)) = true := by decide
theorem witness_ElementsAreWrittenOnlyByTheirWriters_errFlag :
    changes (·.errFlag) (State.reset.pushEvent (.request 0x16000000)) = true := by decide
theorem witness_ElementsAreWrittenOnlyByTheirWriters_msgValid :
    changes (·.msgValid) (filled.pushEvent (.request 0x17000000)) = true := by decide
theorem witness_ElementsAreWrittenOnlyByTheirWriters_waitTimer :
    changes (·.waitTimer) (filled.pushEvent (.request 0x20000005)) = true := by decide
theorem witness_ElementsAreWrittenOnlyByTheirWriters_messageTimer :
    changes (·.messageTimer) (filled.pushEvent (.request 0x21000005)) = true := by decide
theorem witness_ElementsAreWrittenOnlyByTheirWriters_elemTimer :
    changes (·.elemTimer) ((loaded 3 []).pushEvent .tick) = true := by decide
theorem witness_ElementsAreWrittenOnlyByTheirWriters_elemReload :
    changes (·.elemReload) (filled.pushEvent (.request 0x22000005)) = true := by decide
theorem witness_ElementsAreWrittenOnlyByTheirWriters_delayReload :
    changes (·.delayReload) (filled.pushEvent (.request 0x26000000)) = true := by decide
theorem witness_ElementsAreWrittenOnlyByTheirWriters_edgeFlag :
    changes (·.edgeFlag) ((loaded 1 []).pushEvent .tick) = true := by decide
theorem witness_ElementsAreWrittenOnlyByTheirWriters_tickMask :
    changes (·.tickMask) (filled.pushEvent (.request 0x02000000)) = true := by decide
theorem witness_ElementsAreWrittenOnlyByTheirWriters_tickPending :
    changes (·.tickPending) (filled.pushEvent .tick) = true := by decide
theorem witness_ElementsAreWrittenOnlyByTheirWriters_chBase :
    changes (·.chBase) (filled.pushEvent (.request 0x34C90000)) = true := by decide
theorem witness_ElementsAreWrittenOnlyByTheirWriters_chDelta :
    changes (·.chDelta) (filled.pushEvent (.request 0x34B10000)) = true := by decide
theorem witness_ElementsAreWrittenOnlyByTheirWriters_reloadReq :
    changes (·.reloadReq) (filled.pushEvent (.request 0x31000000)) = true := by decide

theorem witness_ErrorFlagIsLatched_clear :
    (filled.pushEvent (.request 0x1500F846)).errFlag = false ∧
      ∃ t, step (filled.pushEvent (.request 0x1500F846)) = .next t := ⟨rfl, _, rfl⟩
theorem witness_ErrorFlagIsLatched_set :
    ({ filled with errFlag := true }.pushEvent (.request 0x04000000)).errFlag = true ∧
      ∃ t, step ({ filled with errFlag := true }.pushEvent (.request 0x04000000)) = .next t := ⟨rfl, _, rfl⟩

theorem witness_ErrorFlagIsLatched_gates_nothing :
    Instr.tickMask ≠ .errRd ∧ Instr.tickMask ≠ .errClr ∧ Instr.tickMask ≠ .statRd ∧
      ∃ t, exec .tickMask filled = .next t := ⟨by decide, by decide, by decide, _, rfl⟩

theorem witness_MessageVerdictIsKept_checked :
    (filled.pushEvent (.request 0x17000000)).nextInstr = some .msgChk ∧
      ∃ t, step (filled.pushEvent (.request 0x17000000)) = .next t := ⟨by decide, _, rfl⟩
theorem witness_MessageVerdictIsKept_other :
    filled.nextInstr ≠ some .msgChk ∧ filled.nextInstr ≠ some .tmrInit ∧ ¬ filled.nextIs .reset ∧
      ∃ t, step filled = .next t := ⟨by decide, by decide, by simp [State.nextIs, filled, State.reset], _, rfl⟩
theorem witness_MessageVerdictIsKept_gates_nothing :
    Instr.msgChk ≠ .statRd ∧ (∃ t, exec .msgChk filled = .next t) ∧ Instr.chRd ≠ .statRd ∧
      ∃ t, exec .chRd filled = .next t := ⟨by decide, ⟨_, rfl⟩, by decide, _, rfl⟩

/-- V2.22's kind of state: a store that differs in the first of the two reserved bytes, at address 134. -/
theorem witness_ReservedBytesAreNeverRead :
    State.reset.cfg.Valid ∧
      (∀ a : Nat, blockReads State.reset.cfg a → Memory.read [(134, 0x5A)] a = State.reset.store.read a) ∧
      ∃ t, exec .msgChk State.reset = .next t := by
  refine ⟨by decide, fun a h => ?_, _, rfl⟩
  have hlt : 134 ≠ a := by simp [blockReads, State.reset, Config.default] at h; omega
  simp [Memory.read, State.reset, hlt]

/-- The four requests of the boot sequence to come. -/
def booting (s : State) : State :=
  { s with events := [.request 0x33000000, .request 0x26000000, .request 0x31000000, .request 0x02000000, .tick] }

/-- The hypotheses of `Obligations.BootSequenceConfiguresTheBlock`. -/
abbrev BootStart (s : State) (pending : Bool) : Prop :=
  bankOk s ∧ (durNat s ≠ 0 ∨ s.cfg.zeroElemOk = true) ∧ s.tickPending = pending ∧
    s.events = .request 0x33000000 :: .request 0x26000000 :: .request 0x31000000 :: .request 0x02000000 :: [.tick]

theorem witness_BootSequenceConfiguresTheBlock_none : BootStart (booting { filled with chPins := 1 }) false := by decide
theorem witness_BootSequenceConfiguresTheBlock_pending :
    BootStart (booting { filled with tickPending := true, waitTimer := 5 }) true := by decide
theorem witness_BootSequenceConfiguresTheBlock_pending_shortest :
    BootStart (booting { withDuration 0 1 with tickPending := true }) true := by decide

/-- The hypotheses of `Obligations.ProgrammedChannelReadsBack` but for the byte order. -/
abbrev ProgramStart (s : State) : Prop :=
  s.tickMask = true ∧ s.store.wf ∧ 2 < s.cfg.channels ∧ rec1.length = 24 ∧ (∀ k, k < 24 → s.chanByte 2 k = 0xFF) ∧
    s.events = .env (.programChannel 2 rec1) :: (List.replicate 24 (.env .programStep) ++ []) ∧
    rec1[4 * 5]? = some 0x00 ∧ rec1[4 * 5 + 1]? = some 0x58 ∧ rec1[4 * 5 + 2]? = some 0x00 ∧
    rec1[4 * 5 + 3]? = some 0x05

theorem witness_ProgrammedChannelReadsBack_big : ∃ s : State, ProgramStart s ∧ s.cfg.regByteOrder = .big :=
  ⟨{ filled with events := .env (.programChannel 2 rec1) :: (List.replicate 24 (.env .programStep) ++ []) },
    by decide⟩
theorem witness_ProgrammedChannelReadsBack_little : ∃ s : State, ProgramStart s ∧ s.cfg.regByteOrder = .little :=
  ⟨{ filled with
      cfg := { Config.default with regByteOrder := .little }
      events := .env (.programChannel 2 rec1) :: (List.replicate 24 (.env .programStep) ++ []) },
    by decide⟩

theorem witness_RejectedStoreActionsWriteNothing_index :
    ∃ s : State, s.tickMask = true ∧ s.events = .env (.programChannel 3 rec0) :: [] ∧ s.cfg.channels ≤ 3 :=
  ⟨filled.pushEvent (.env (.programChannel 3 rec0)), by decide⟩
theorem witness_RejectedStoreActionsWriteNothing_length :
    ∃ s : State, s.tickMask = true ∧ s.events = .env (.programChannel 2 (rec0.take 23)) :: [] ∧ 2 < s.cfg.channels ∧
      (rec0.take 23).length ≠ 24 := ⟨filled.pushEvent (.env (.programChannel 2 (rec0.take 23))), by decide⟩
theorem witness_RejectedStoreActionsWriteNothing_channel :
    ∃ s : State, s.tickMask = true ∧ s.events = .env (.writeChByte 3 0 0) :: [] ∧ s.cfg.channels ≤ 3 :=
  ⟨filled.pushEvent (.env (.writeChByte 3 0 0)), by decide⟩
theorem witness_RejectedStoreActionsWriteNothing_reserved :
    ∃ s : State, s.tickMask = true ∧ s.events = .env (.writeMsgByte 62 0) :: [] ∧
      s.cfg.msgSize - 2 ≤ (62 : Half).toNat := ⟨filled.pushEvent (.env (.writeMsgByte 62 0)), by decide⟩

theorem witness_StoreByteIsWrittenWhereErased_erased :
    ∃ s : State, s.tickMask = true ∧ s.store.wf ∧ s.events = .env (.writeMsgByte 61 0x18) :: [] ∧
      (61 : Half).toNat < s.cfg.msgSize - 2 ∧ (s.msgByte 61 = 0xFF ∨ s.cfg.storeOverwrite = true) :=
  ⟨filled.pushEvent (.env (.writeMsgByte 61 0x18)), by decide⟩
theorem witness_StoreByteIsWrittenWhereErased_programmed :
    ∃ s : State, s.tickMask = true ∧ s.store.wf ∧ s.events = .env (.writeMsgByte 0 0x18) :: [] ∧
      (0 : Half).toNat < s.cfg.msgSize - 2 ∧ s.msgByte 0 ≠ 0xFF ∧ s.cfg.storeOverwrite = false :=
  ⟨filled.pushEvent (.env (.writeMsgByte 0 0x18)), by decide⟩

theorem witness_StoreByteIsWrittenWhereErased_reserved :
    ∃ s : State, s.tickMask = true ∧ s.store.wf ∧ s.events = .env (.writeMsgByte 62 0x18) :: [] ∧
      s.cfg.msgSize - 2 ≤ (62 : Half).toNat := ⟨filled.pushEvent (.env (.writeMsgByte 62 0x18)), by decide⟩
theorem witness_StoreByteIsWrittenWhereErased_channel_erased :
    ∃ s : State, s.tickMask = true ∧ s.store.wf ∧ s.events = .env (.writeChByte 2 23 0x18) :: [] ∧
      2 < s.cfg.channels ∧ (s.chanByte 2 23 = 0xFF ∨ s.cfg.storeOverwrite = true) :=
  ⟨filled.pushEvent (.env (.writeChByte 2 23 0x18)), by decide⟩
theorem witness_StoreByteIsWrittenWhereErased_channel_programmed :
    ∃ s : State, s.tickMask = true ∧ s.store.wf ∧ s.events = .env (.writeChByte 0 0 0x18) :: [] ∧
      0 < s.cfg.channels ∧ s.chanByte 0 0 ≠ 0xFF ∧ s.cfg.storeOverwrite = false :=
  ⟨filled.pushEvent (.env (.writeChByte 0 0 0x18)), by decide⟩

/-- A state in which a byte write replaces the old byte. -/
def overwriting (s : State) : State := { s with cfg := { s.cfg with storeOverwrite := true } }

theorem witness_StoreByteIsWrittenWhereErased_overwrite :
    ∃ s : State, s.tickMask = true ∧ s.store.wf ∧ s.events = .env (.writeMsgByte 0 0x18) :: [] ∧
      (0 : Half).toNat < s.cfg.msgSize - 2 ∧ s.msgByte 0 ≠ 0xFF ∧ s.cfg.storeOverwrite = true :=
  ⟨overwriting (filled.pushEvent (.env (.writeMsgByte 0 0x18))), by decide⟩
theorem witness_StoreByteIsWrittenWhereErased_channel_overwrite :
    ∃ s : State, s.tickMask = true ∧ s.store.wf ∧ s.events = .env (.writeChByte 0 0 0x18) :: [] ∧
      0 < s.cfg.channels ∧ s.chanByte 0 0 ≠ 0xFF ∧ s.cfg.storeOverwrite = true :=
  ⟨overwriting (filled.pushEvent (.env (.writeChByte 0 0 0x18))), by decide⟩

/-- A channel programming under way, its next byte write to come. -/
def programmingAt (s : State) (c k : Nat) (rest : List Byte) : State :=
  { s with programming := some { channel := c, offset := k, rest := rest }, events := [.env .programStep] }

/-- The hypotheses of the third clause of `Obligations.StoreByteIsWrittenWhereErased`. -/
abbrev ProgramByteStart (s : State) (c k : Nat) (b : Byte) (bs : List Byte) : Prop :=
  s.tickMask = true ∧ s.store.wf ∧ s.events = .env .programStep :: [] ∧
    s.programming = some { channel := c, offset := k, rest := b :: bs }

theorem witness_StoreByteIsWrittenWhereErased_program_last :
    ProgramByteStart (programmingAt filled 2 23 [0x05]) 2 23 0x05 [] ∧
      (programmingAt filled 2 23 [0x05]).chanByte 2 23 = 0xFF := by decide
theorem witness_StoreByteIsWrittenWhereErased_program_not_last :
    ProgramByteStart (programmingAt filled 2 22 [0x00, 0x05]) 2 22 0x00 [0x05] ∧
      (programmingAt filled 2 22 [0x00, 0x05]).chanByte 2 22 = 0xFF := by decide
theorem witness_StoreByteIsWrittenWhereErased_program_overwrite :
    ProgramByteStart (programmingAt (overwriting filled) 0 0 rec1) 0 0 0x11 (rec1.drop 1) ∧
      (programmingAt (overwriting filled) 0 0 rec1).chanByte 0 0 ≠ 0xFF ∧
      (programmingAt (overwriting filled) 0 0 rec1).cfg.storeOverwrite = true := by decide
theorem witness_StoreByteIsWrittenWhereErased_program_programmed :
    ProgramByteStart (programmingAt filled 0 0 rec1) 0 0 0x11 (rec1.drop 1) ∧
      (programmingAt filled 0 0 rec1).chanByte 0 0 ≠ 0xFF ∧
      (programmingAt filled 0 0 rec1).cfg.storeOverwrite = false := by decide

theorem witness_EraseTouchesItsOwnRegionOnly_channels :
    ∃ s : State, s.tickMask = true ∧ s.events = .env .eraseChannels :: [] :=
  ⟨filled.pushEvent (.env .eraseChannels), by decide⟩
theorem witness_EraseTouchesItsOwnRegionOnly_message :
    ∃ s : State, s.tickMask = true ∧ s.events = .env .eraseMessage :: [] :=
  ⟨filled.pushEvent (.env .eraseMessage), by decide⟩

/-- The hypotheses of the first clause of `Obligations.StoreActionsNeedTheMask`, the kind of action apart. -/
abbrev UnmaskedAction (s : State) (act : EnvAction) : Prop := s.tickMask = false ∧ s.events = .env act :: []

theorem witness_StoreActionsNeedTheMask_programChannel :
    UnmaskedAction (ticking.pushEvent (.env (.programChannel 2 rec1))) (.programChannel 2 rec1) := by decide
theorem witness_StoreActionsNeedTheMask_rejected_later :
    UnmaskedAction (ticking.pushEvent (.env (.programChannel 3 []))) (.programChannel 3 []) := by decide
theorem witness_StoreActionsNeedTheMask_writeChByte :
    UnmaskedAction (ticking.pushEvent (.env (.writeChByte 2 23 0))) (.writeChByte 2 23 0) := by decide
theorem witness_StoreActionsNeedTheMask_eraseChannels :
    UnmaskedAction (ticking.pushEvent (.env .eraseChannels)) .eraseChannels := by decide
theorem witness_StoreActionsNeedTheMask_eraseMessage :
    UnmaskedAction (ticking.pushEvent (.env .eraseMessage)) .eraseMessage := by decide
theorem witness_StoreActionsNeedTheMask_writeMsgByte :
    UnmaskedAction (ticking.pushEvent (.env (.writeMsgByte 61 0))) (.writeMsgByte 61 0) := by decide
theorem witness_StoreActionsNeedTheMask_programStep :
    UnmaskedAction (programmingAt ticking 2 23 [0x05]) .programStep ∧
      ∃ p, (programmingAt ticking 2 23 [0x05]).programming = some p ∧ p.rest ≠ [] :=
  ⟨by decide, _, rfl, by decide⟩
theorem witness_StoreActionsNeedTheMask_pins :
    ∃ s : State, s.tickMask = false ∧ s.events = .env (.setPins 0xF) :: [] :=
  ⟨ticking.pushEvent (.env (.setPins 0xF)), by decide⟩

end Sys2Proof.Tests
end

section
/-!
Who writes which element of the block: rule R20's column "written by" as a function of the instruction, and that
every instruction and every step of the machine stays within it (spec/10_state.md rules R20 and R22).
-/

namespace Sys2Proof

/-! ### The elements, and what writes them -/

/-- The fourteen elements of the block, in the order of rule R20. -/
inductive Element where
  | crcAcc | errFlag | msgValid | waitTimer | messageTimer | elemTimer | elemReload | delayReload | edgeFlag
  | tickMask | tickPending | chBase | chDelta | reloadReq

/-- The elements that a CMD8 command of the given code writes (rules R192 to R196). -/
@[simp] def commandWrites (code : Nat) : List Element :=
  (if code = 0xC then [.chBase] else []) ++
    if code = 0xC ∨ code = 0xB ∨ code = 0x9 then [.chDelta, .reloadReq] else []

/-- The elements that the tick agent writes (rule R22). -/
@[simp] def tickWrites : List Element := [.waitTimer, .messageTimer, .elemTimer, .edgeFlag, .tickPending]

/-- The elements that an instruction writes: rule R20's column "written by", read by instruction. -/
@[simp] def Instr.writes : Instr → List Element
  | .crcClr | .crcByte _ | .crcChan | .crcMsg => [.crcAcc]
  | .crcCmpc _ | .crcCmpm _ => [.crcAcc, .errFlag]
  | .errClr => [.errFlag]
  | .msgChk => [.msgValid]
  | .tmrInit => [.msgValid, .elemTimer, .elemReload, .delayReload, .edgeFlag]
  | .tmrLdw _ => [.waitTimer]
  | .tmrLdm _ | .tmrArmm => [.messageTimer]
  | .tmrLde _ => [.elemTimer, .elemReload]
  | .edgeTake => [.edgeFlag]
  | .tickMask => [.tickMask]
  | .tickUnmask => .tickMask :: tickWrites
  | .selAct => [.reloadReq]
  | .chLatch => [.chBase, .reloadReq]
  | .chCmd m => commandWrites (m.toNat / 16)
  | .channelSet _ => commandWrites 0xC
  | .channelAdd _ => commandWrites 0xB
  | .channelClearIfGt _ => commandWrites 0x9
  | .nop | .errRd | .statRd | .crcRd | .tmrRdw | .tmrRdm | .tmrRde | .selIdx _ | .selNext | .chRd => []
  | .endOfMessage _ | .ioIncrement _ | .ioDecrement _ | .ioSet _ | .unrecognized07 _ _ | .unrecognized8 _ => []

/-- A row of the CMD8 table, which reaches the block inside CH.CMD only (rule R191). -/
@[simp] def Instr.isCommand : Instr → Bool
  | .channelSet _ | .channelAdd _ | .channelClearIfGt _ | .endOfMessage _ | .ioIncrement _ | .ioDecrement _ => true
  | .ioSet _ | .unrecognized07 _ _ | .unrecognized8 _ => true
  | _ => false

/-! ### No request word decodes to a CMD8 row -/

theorem decodePlain_ok {i j : Instr} {w : Word} (h : decodePlain i w = .ok j) : j = i := by
  unfold decodePlain at h
  split_ifs at h
  exact (Except.ok.inj h).symm

theorem decodeA_ok {f : Byte → Instr} {j : Instr} {w : Word} (h : decodeA f w = .ok j) : j = f (reqA w) := by
  unfold decodeA at h
  split_ifs at h
  exact (Except.ok.inj h).symm

theorem decodeV_ok {f : Half → Instr} {j : Instr} {w : Word} (h : decodeV f w = .ok j) : j = f (reqV w) := by
  unfold decodeV at h
  split_ifs at h
  exact (Except.ok.inj h).symm

theorem isCommand_of_decode {w : Word} {i : Instr} (h : decode w = .ok i) : i.isCommand = false := by
  unfold decode at h
  split at h
  case h_30 => cases h
  all_goals
    first
      | rw [decodePlain_ok h]; rfl
      | rw [decodeA_ok h]; rfl
      | rw [decodeV_ok h]; rfl

/-! ### The writers of each element: rule R20's column, read by element -/

section
variable {i : Instr}

theorem writers_crcAcc (h : .crcAcc ∈ i.writes) :
    i = .crcClr ∨ (∃ a, i = .crcByte a) ∨ i = .crcChan ∨ i = .crcMsg ∨ (∃ v, i = .crcCmpc v) ∨
      ∃ v, i = .crcCmpm v := by
  cases i <;> simp_all

theorem writers_errFlag (h : .errFlag ∈ i.writes) :
    i = .errClr ∨ (∃ v, i = .crcCmpc v) ∨ ∃ v, i = .crcCmpm v := by
  cases i <;> simp_all

theorem writers_msgValid (h : .msgValid ∈ i.writes) : i = .msgChk ∨ i = .tmrInit := by
  cases i <;> simp_all

theorem writers_waitTimer (h : .waitTimer ∈ i.writes) : (∃ v, i = .tmrLdw v) ∨ i = .tickUnmask := by
  cases i <;> simp_all

theorem writers_messageTimer (h : .messageTimer ∈ i.writes) :
    (∃ v, i = .tmrLdm v) ∨ i = .tmrArmm ∨ i = .tickUnmask := by
  cases i <;> simp_all

theorem writers_elemTimer (h : .elemTimer ∈ i.writes) : (∃ v, i = .tmrLde v) ∨ i = .tmrInit ∨ i = .tickUnmask := by
  cases i <;> simp_all

theorem writers_elemReload (h : .elemReload ∈ i.writes) : (∃ v, i = .tmrLde v) ∨ i = .tmrInit := by
  cases i <;> simp_all

theorem writers_delayReload (h : .delayReload ∈ i.writes) : i = .tmrInit := by
  cases i <;> simp_all

theorem writers_edgeFlag (h : .edgeFlag ∈ i.writes) : i = .tickUnmask ∨ i = .edgeTake ∨ i = .tmrInit := by
  cases i <;> simp_all

theorem writers_tickMask (h : .tickMask ∈ i.writes) : i = .tickMask ∨ i = .tickUnmask := by
  cases i <;> simp_all

theorem writers_tickPending (h : .tickPending ∈ i.writes) : i = .tickUnmask := by
  cases i <;> simp_all

variable (hi : i.isCommand = false)
include hi

theorem writers_chBase (h : .chBase ∈ i.writes) : i = .chLatch ∨ ∃ m : Byte, i = .chCmd m ∧ m.toNat / 16 = 0xC := by
  cases i <;> simp_all

theorem writers_chDelta (h : .chDelta ∈ i.writes) :
    ∃ m : Byte, i = .chCmd m ∧ (m.toNat / 16 = 0xC ∨ m.toNat / 16 = 0xB ∨ m.toNat / 16 = 0x9) := by
  cases i <;> simp_all

theorem writers_reloadReq (h : .reloadReq ∈ i.writes) :
    i = .chLatch ∨ i = .selAct ∨
      ∃ m : Byte, i = .chCmd m ∧ (m.toNat / 16 = 0xC ∨ m.toNat / 16 = 0xB ∨ m.toNat / 16 = 0x9) := by
  cases i <;> simp_all

end

end Sys2Proof

namespace Sys2Proof.Machine

/-! ### What an instruction and an environment action leave alone -/

/-- `t` holds in the element what `s` holds in it. -/
def SameIn (s t : State) : Element → Prop
  | .crcAcc => t.crcAcc = s.crcAcc
  | .errFlag => t.errFlag = s.errFlag
  | .msgValid => t.msgValid = s.msgValid
  | .waitTimer => t.waitTimer = s.waitTimer
  | .messageTimer => t.messageTimer = s.messageTimer
  | .elemTimer => t.elemTimer = s.elemTimer
  | .elemReload => t.elemReload = s.elemReload
  | .delayReload => t.delayReload = s.delayReload
  | .edgeFlag => t.edgeFlag = s.edgeFlag
  | .tickMask => t.tickMask = s.tickMask
  | .tickPending => t.tickPending = s.tickPending
  | .chBase => t.chBase = s.chBase
  | .chDelta => t.chDelta = s.chDelta
  | .reloadReq => t.reloadReq = s.reloadReq

@[simp] theorem sameIn_events (s t : State) (es : List Event) (e : Element) :
    SameIn { s with events := es } t e ↔ SameIn s t e := by
  cases e <;> rfl

/-- `s` and `t` agree in every element outside `ws`. -/
def SameBut (ws : List Element) (s t : State) : Prop := ∀ e, e ∉ ws → SameIn s t e

theorem sameBut_iff {ws : List Element} {s t : State} : SameBut ws s t ↔
    (.crcAcc ∉ ws → t.crcAcc = s.crcAcc) ∧ (.errFlag ∉ ws → t.errFlag = s.errFlag) ∧
    (.msgValid ∉ ws → t.msgValid = s.msgValid) ∧ (.waitTimer ∉ ws → t.waitTimer = s.waitTimer) ∧
    (.messageTimer ∉ ws → t.messageTimer = s.messageTimer) ∧ (.elemTimer ∉ ws → t.elemTimer = s.elemTimer) ∧
    (.elemReload ∉ ws → t.elemReload = s.elemReload) ∧ (.delayReload ∉ ws → t.delayReload = s.delayReload) ∧
    (.edgeFlag ∉ ws → t.edgeFlag = s.edgeFlag) ∧ (.tickMask ∉ ws → t.tickMask = s.tickMask) ∧
    (.tickPending ∉ ws → t.tickPending = s.tickPending) ∧ (.chBase ∉ ws → t.chBase = s.chBase) ∧
    (.chDelta ∉ ws → t.chDelta = s.chDelta) ∧ (.reloadReq ∉ ws → t.reloadReq = s.reloadReq) := by
  constructor
  · exact fun h => ⟨h .crcAcc, h .errFlag, h .msgValid, h .waitTimer, h .messageTimer, h .elemTimer, h .elemReload,
      h .delayReload, h .edgeFlag, h .tickMask, h .tickPending, h .chBase, h .chDelta, h .reloadReq⟩
  · rintro ⟨h1, h2, h3, h4, h5, h6, h7, h8, h9, h10, h11, h12, h13, h14⟩ e
    cases e <;> assumption

theorem sameBlock_iff {s t : State} : SameBlock s t ↔ SameBut [] s t := by simp [sameBut_iff, SameBlock]

theorem channelClearIfGt_sameBut {k : Nibble} {s t : State} (h : execChannelClearIfGt k s = .next t) :
    SameBut (commandWrites 0x9) s t := by
  unfold execChannelClearIfGt at h
  split_ifs at h <;> injection h with h <;> subst h <;> simp [sameBut_iff, State.respondCommand_eq]

/-- Every instruction stays within rule R20's column "written by". -/
theorem exec_sameBut_writes {i : Instr} {s t : State} (h : exec i s = .next t) : SameBut i.writes s t := by
  cases i
  case tickUnmask =>
    simp only [exec, execTickUnmask] at h
    injection h with h; subst h
    cases hp : s.tickPending <;> simp [sameBut_iff, hp]
  case crcMsg =>
    simp only [exec, execCrcMsg] at h
    split at h <;> injection h with h <;> subst h <;> simp [sameBut_iff, State.raise_eq]
  case crcCmpc v =>
    simp only [exec, execCrcCmpc, compareCrc_eq] at h
    injection h with h; subst h
    simp [sameBut_iff]
  case crcCmpm v =>
    simp only [exec, execCrcCmpm, compareCrc_eq] at h
    split at h <;> injection h with h <;> subst h <;> simp [sameBut_iff, State.raise_eq]
  case tmrLde v =>
    simp only [exec, execTmrLde] at h
    split_ifs at h
    injection h with h; subst h
    simp [sameBut_iff]
  case tmrInit =>
    simp only [exec, execTmrInit] at h
    split_ifs at h <;> injection h with h <;> subst h <;> simp [sameBut_iff]
  case chCmd m =>
    simp only [exec, execChCmd, toNat_cmdCode] at h
    split at h
    case h_1 hcode =>
      injection h with h; subst h
      simp [sameBut_iff, State.respondCommand_eq, hcode]
    case h_2 hcode =>
      injection h with h; subst h
      simp [sameBut_iff, State.respondCommand_eq, hcode]
    case h_3 hcode =>
      rw [Instr.writes, hcode]
      exact channelClearIfGt_sameBut h
    case h_4 =>
      injection h with h; subst h
      simp [sameBut_iff, State.respondCommand_eq]
  case channelClearIfGt k => exact channelClearIfGt_sameBut h
  all_goals
    injection h with h; subst h
    simp [sameBut_iff, State.respondCommand_eq, State.respondSelection_eq]

theorem report_sameBlock (s : State) (r : EnvReport) : SameBlock s (s.report r) := by simp [SameBlock]

theorem writeStoreByte_sameBlock {addr : Nat} {b : Byte} {s t : State} (h : writeStoreByte addr b s = .next t) :
    SameBlock s t := by
  obtain ⟨-, rfl⟩ := writeStoreByte_next h
  simp [SameBlock]

/-- An environment action writes no element of the block (rule R60). -/
theorem runEnv_sameBlock {act : EnvAction} {s t : State} (h : runEnv act s = .next t) : SameBlock s t := by
  cases act with
  | programChannel c bytes =>
    simp only [runEnv, programChannel] at h
    obtain ⟨-, h⟩ := storeAction_next h
    split_ifs at h <;> injection h with h <;> subst h <;> exact report_sameBlock _ _
  | programStep =>
    simp only [runEnv, programStep] at h
    split at h
    · injection h with h; subst h; exact report_sameBlock _ _
    · split at h
      · injection h with h; subst h; exact report_sameBlock _ _
      · obtain ⟨-, h⟩ := storeAction_next h
        simpa [SameBlock] using writeStoreByte_sameBlock h
  | writeChByte c k b =>
    simp only [runEnv, writeChByte] at h
    obtain ⟨-, h⟩ := storeAction_next h
    split_ifs at h
    · injection h with h; subst h; exact report_sameBlock _ _
    · exact writeStoreByte_sameBlock h
  | eraseChannels =>
    simp only [runEnv, eraseChannels] at h
    obtain ⟨-, h⟩ := storeAction_next h
    injection h with h; subst h; exact report_sameBlock _ _
  | eraseMessage =>
    simp only [runEnv, eraseMessage] at h
    obtain ⟨-, h⟩ := storeAction_next h
    injection h with h; subst h; exact report_sameBlock _ _
  | writeMsgByte k b =>
    simp only [runEnv, writeMsgByte] at h
    obtain ⟨-, h⟩ := storeAction_next h
    split_ifs at h
    · injection h with h; subst h; exact report_sameBlock _ _
    · exact writeStoreByte_sameBlock h
  | setPins p =>
    injection h with h; subst h; exact report_sameBlock _ _

/-- The tick agent writes its own elements only (rule R22). -/
theorem tickEvent_sameBut (s : State) (o : Output) : SameBut tickWrites s { s.tickEvent with out := o } := by
  unfold State.tickEvent
  split_ifs <;> simp [sameBut_iff]

/-! ### The step -/

theorem nextInstr_eq_some {s : State} {i : Instr} :
    s.nextInstr = some i ↔ ∃ w es, s.events = .request w :: es ∧ decode w = .ok i := by
  unfold State.nextInstr
  split
  · rename_i w es he
    constructor
    · intro h
      split at h <;> simp_all
    · rintro ⟨w', es', he', hd⟩
      simp_all
  · rename_i he
    simp only [reduceCtorEq, false_iff]
    rintro ⟨w, es, h, -⟩
    exact he w es h

theorem nextIs_iff {s : State} {e : Event} : s.nextIs e ↔ ∃ es, s.events = e :: es := by
  simp [State.nextIs, List.head?_eq_some_iff]

/-- A step that is asked for an instruction carries it out. -/
theorem exec_of_step {s t : State} {i : Instr} (h : step s = .next t) (hi : s.nextInstr = some i) :
    ∃ es, exec i { s with events := es } = .next t := by
  obtain ⟨w, es, he, hd⟩ := nextInstr_eq_some.mp hi
  exact ⟨es, step_request he hd ▸ h⟩

theorem isCommand_of_nextInstr {s : State} {i : Instr} (h : s.nextInstr = some i) : i.isCommand = false := by
  obtain ⟨w, es, -, hd⟩ := nextInstr_eq_some.mp h
  exact isCommand_of_decode hd

theorem eq_of_step_reset {s t : State} (h : step s = .next t) (hr : s.nextIs .reset) :
    ∃ es, t = State.resetBlock { s with events := es } := by
  obtain ⟨es, he⟩ := nextIs_iff.mp hr
  simp only [step, runNext, he, runEvent] at h
  injection h with h
  exact ⟨es, h.symm⟩

/-- An element that a step other than a reset changes is written by the tick that the step is, or by the instruction
it carries out. -/
theorem writer_of_change {s t : State} (h : step s = .next t) (hr : ¬ s.nextIs .reset) {e : Element}
    (hc : ¬ SameIn s t e) : (s.nextIs .tick ∧ e ∈ tickWrites) ∨ ∃ i, s.nextInstr = some i ∧ e ∈ i.writes := by
  by_contra hn
  obtain ⟨htick, hinstr⟩ := not_or.mp hn
  apply hc
  rcases step_next h with ⟨-, rfl⟩ | ⟨w, es, i, he, hd, hx⟩ | ⟨w, es, err, -, -, rfl⟩ | ⟨es, he, rfl⟩ | ⟨es, he, -⟩ |
      ⟨act, es, -, hx⟩
  · cases e <;> rfl
  · have hi := nextInstr_eq_some.mpr ⟨w, es, he, hd⟩
    simpa using exec_sameBut_writes hx e fun hm => hinstr ⟨i, hi, hm⟩
  · cases e <;> rfl
  · simpa using tickEvent_sameBut { s with events := es } .silent e fun hm => htick ⟨nextIs_iff.mpr ⟨es, he⟩, hm⟩
  · exact absurd (nextIs_iff.mpr ⟨es, he⟩) hr
  · simpa using sameBlock_iff.mp (runEnv_sameBlock hx) e List.not_mem_nil

/-- An element that the tick agent does not write is changed by an instruction only. -/
theorem instr_of_change {s t : State} (h : step s = .next t) (hr : ¬ s.nextIs .reset) {e : Element}
    (he : e ∉ tickWrites) (hc : ¬ SameIn s t e) : ∃ i, s.nextInstr = some i ∧ e ∈ i.writes :=
  (writer_of_change h hr hc).resolve_left fun ht => he ht.2

end Sys2Proof.Machine

/-! ### The obligation -/

section
open Sys2Proof Sys2Proof.Machine

/-- Settles O51: what changed was written by the instruction or the tick that the step is (`writer_of_change`), and
the writers of each element are those of rule R20's column. -/
theorem elementsAreWrittenOnlyByTheirWriters : Obligations.ElementsAreWrittenOnlyByTheirWriters := by
  unfold Obligations.ElementsAreWrittenOnlyByTheirWriters
  intro s t h hr
  refine ⟨fun hc => ?crcAcc, fun hc => ?errFlag, fun hc => ?msgValid, fun hc => ?waitTimer, fun hc => ?messageTimer,
    fun hc => ?elemTimer, fun hc => ?elemReload, fun hc => ?delayReload, fun hc => ?edgeFlag, fun hc => ?tickMask,
    fun hc => ?tickPending, fun hc => ?chBase, fun hc => ?chDelta, fun hc => ?reloadReq⟩
  case crcAcc =>
    obtain ⟨i, hi, hw⟩ := instr_of_change h hr (e := .crcAcc) (by simp) hc
    simpa [hi] using writers_crcAcc hw
  case errFlag =>
    obtain ⟨i, hi, hw⟩ := instr_of_change h hr (e := .errFlag) (by simp) hc
    simpa [hi] using writers_errFlag hw
  case msgValid =>
    obtain ⟨i, hi, hw⟩ := instr_of_change h hr (e := .msgValid) (by simp) hc
    simpa [hi] using writers_msgValid hw
  case waitTimer =>
    rcases writer_of_change h hr (e := .waitTimer) hc with ⟨ht, -⟩ | ⟨i, hi, hw⟩
    · simp [ht]
    · rcases writers_waitTimer hw with ⟨v, rfl⟩ | rfl <;> simp [hi]
  case messageTimer =>
    rcases writer_of_change h hr (e := .messageTimer) hc with ⟨ht, -⟩ | ⟨i, hi, hw⟩
    · simp [ht]
    · rcases writers_messageTimer hw with ⟨v, rfl⟩ | rfl | rfl <;> simp [hi]
  case elemTimer =>
    rcases writer_of_change h hr (e := .elemTimer) hc with ⟨ht, -⟩ | ⟨i, hi, hw⟩
    · simp [ht]
    · rcases writers_elemTimer hw with ⟨v, rfl⟩ | rfl | rfl <;> simp [hi]
  case elemReload =>
    obtain ⟨i, hi, hw⟩ := instr_of_change h hr (e := .elemReload) (by simp) hc
    simpa [hi] using writers_elemReload hw
  case delayReload =>
    obtain ⟨i, hi, hw⟩ := instr_of_change h hr (e := .delayReload) (by simp) hc
    simpa [hi] using writers_delayReload hw
  case edgeFlag =>
    rcases writer_of_change h hr (e := .edgeFlag) hc with ⟨ht, -⟩ | ⟨i, hi, hw⟩
    · simp [ht]
    · simpa [hi] using .inr (writers_edgeFlag hw)
  case tickMask =>
    obtain ⟨i, hi, hw⟩ := instr_of_change h hr (e := .tickMask) (by simp) hc
    simpa [hi] using writers_tickMask hw
  case tickPending =>
    rcases writer_of_change h hr (e := .tickPending) hc with ⟨ht, -⟩ | ⟨i, hi, hw⟩
    · simp [ht]
    · simpa [hi] using .inr (writers_tickPending hw)
  case chBase =>
    obtain ⟨i, hi, hw⟩ := instr_of_change h hr (e := .chBase) (by simp) hc
    simpa [hi] using writers_chBase (isCommand_of_nextInstr hi) hw
  case chDelta =>
    obtain ⟨i, hi, hw⟩ := instr_of_change h hr (e := .chDelta) (by simp) hc
    simpa [hi] using writers_chDelta (isCommand_of_nextInstr hi) hw
  case reloadReq =>
    obtain ⟨i, hi, hw⟩ := instr_of_change h hr (e := .reloadReq) (by simp) hc
    simpa [hi] using writers_reloadReq (isCommand_of_nextInstr hi) hw

end
end

section
/-!
The two flags that record a verdict, `err_flag` and `msg_valid`: what their writers leave in them, and that neither
gates an operation (spec/10_state.md rules R27 and R35).
-/

namespace Sys2Proof.Machine

/-! ### What the writers leave in the flags -/

/-- The status of a response is not OK exactly if the word is at least 2 ^ 24. -/
theorem two_pow_24_le_resp32 {st aux value : Nat} (hs : st < 256) (ha : aux < 256) (hv : value < 65536) :
    2 ^ 24 ≤ (resp32 st aux value).toNat ↔ st ≠ 0 := by
  rw [resp32, BitVec.toNat_ofNat]
  omega

/-- `t` is the answer of a compare in `s`: a response word, and an `err_flag` that was set before or that says that
the status is not OK. -/
def LatchesError (s t : State) : Prop :=
  ∃ w : Word, t.out = .answered w none ∧ t.errFlag = (s.errFlag || decide (2 ^ 24 ≤ w.toNat))

theorem compareCrc_latchesError (s : State) (c v : Half) : LatchesError s (s.compareCrc c v) := by
  have hst : 2 ^ 24 ≤ (resp32 (if c = v then 0 else 1) 0 c.toNat).toNat ↔ c ≠ v := by
    rw [two_pow_24_le_resp32 (by split_ifs <;> omega) (by decide) c.isLt]
    split_ifs with hcv <;> simp [hcv]
  rw [compareCrc_eq]
  exact ⟨_, rfl, by simp only [hst]⟩

/-- A compare latches a status other than OK (rules R127 and R128). -/
theorem compare_latchesError {i : Instr} {s t : State} (hi : (∃ v, i = .crcCmpc v) ∨ ∃ v, i = .crcCmpm v)
    (h : exec i s = .next t) : LatchesError s t := by
  rcases hi with ⟨v, rfl⟩ | ⟨v, rfl⟩
  · injection h with h; subst h
    exact compareCrc_latchesError s _ v
  · simp only [exec, execCrcCmpm] at h
    split at h <;> injection h with h <;> subst h
    · exact ⟨_, rfl, by simp [State.raise_eq, respWord, Status.code]⟩
    · exact compareCrc_latchesError s _ v

theorem latchesError_of_step {s t : State} (h : step s = .next t)
    (hi : (∃ v, s.nextInstr = some (.crcCmpc v)) ∨ ∃ v, s.nextInstr = some (.crcCmpm v)) : LatchesError s t := by
  rcases hi with ⟨v, hi⟩ | ⟨v, hi⟩ <;> obtain ⟨es, hx⟩ := exec_of_step h hi
  · exact (compare_latchesError (.inl ⟨v, rfl⟩) hx : LatchesError { s with events := es } t)
  · exact (compare_latchesError (.inr ⟨v, rfl⟩) hx : LatchesError { s with events := es } t)

theorem errClr_errFlag {s t : State} (h : exec .errClr s = .next t) : t.errFlag = false := by
  injection h with h; subst h; rfl

/-- MSG.CHK and TMR.INIT leave the verdict of the bank test in `msg_valid` (rules R129 and R161). -/
theorem check_msgValid {i : Instr} {s t : State} (hi : i = .msgChk ∨ i = .tmrInit) (h : exec i s = .next t) :
    t.msgValid = decide (bankOk s) := by
  rw [← msgOk_eq]
  rcases hi with rfl | rfl
  · injection h with h; subst h; rfl
  · simp only [exec, execTmrInit] at h
    split_ifs at h <;> injection h with h <;> subst h <;> simp_all

theorem msgValid_of_step {s t : State} (h : step s = .next t)
    (hi : s.nextInstr = some .msgChk ∨ s.nextInstr = some .tmrInit) : t.msgValid = decide (bankOk s) := by
  rcases hi with hi | hi <;> obtain ⟨es, hx⟩ := exec_of_step h hi
  · exact (check_msgValid (.inl rfl) hx : _ = decide (bankOk { s with events := es }))
  · exact (check_msgValid (.inr rfl) hx : _ = decide (bankOk { s with events := es }))

/-- A step changes `err_flag` only as a reset, as ERR.CLR, or as a compare that latches its status. -/
theorem errFlag_of_change {s t : State} (h : step s = .next t) (hc : t.errFlag ≠ s.errFlag) :
    (t.errFlag = false ∧ (s.nextInstr = some .errClr ∨ s.nextIs .reset)) ∨
      (LatchesError s t ∧ ((∃ v, s.nextInstr = some (.crcCmpc v)) ∨ ∃ v, s.nextInstr = some (.crcCmpm v))) := by
  by_cases hr : s.nextIs .reset
  · obtain ⟨es, rfl⟩ := eq_of_step_reset h hr
    exact .inl ⟨rfl, .inr hr⟩
  · obtain ⟨i, hi, hw⟩ := instr_of_change h hr (e := .errFlag) (by simp) hc
    rcases writers_errFlag hw with rfl | hcmp
    · obtain ⟨es, hx⟩ := exec_of_step h hi
      exact .inl ⟨errClr_errFlag hx, .inl hi⟩
    · have hcmp' : (∃ v, s.nextInstr = some (.crcCmpc v)) ∨ ∃ v, s.nextInstr = some (.crcCmpm v) := by
        simpa [hi] using hcmp
      exact .inr ⟨latchesError_of_step h hcmp', hcmp'⟩

/-! ### What the flags do not gate -/

/-- `r` with `f` applied to its next state. -/
def mapNext (f : State → State) : Result → Result
  | .next t => .next (f t)
  | .fault x => .fault x
  | .refused x => .refused x

/-- `s` with `err_flag` set if `e` says so, and `msg_valid` put through `k`. -/
def State.withVerdicts (e : Bool) (k : Bool → Bool) (s : State) : State :=
  { s with errFlag := e || s.errFlag, msgValid := k s.msgValid }

section
variable (e : Bool) (k : Bool → Bool) (s : State)

@[simp] theorem withVerdicts_tickPending : (s.withVerdicts e k).tickPending = s.tickPending := rfl
@[simp] theorem withVerdicts_chanCrc : (s.withVerdicts e k).chanCrc = s.chanCrc := State.chanCrc_congr rfl rfl
@[simp] theorem withVerdicts_termScan : (s.withVerdicts e k).termScan = s.termScan := State.termScan_congr rfl rfl
@[simp] theorem withVerdicts_msgCrc (len : Nat) : (s.withVerdicts e k).msgCrc len = s.msgCrc len := rfl

theorem withVerdicts_compareCrc (c v : Half) :
    (s.withVerdicts e k).compareCrc c v = (s.compareCrc c v).withVerdicts e k := by
  simp [compareCrc_eq, State.withVerdicts, Bool.or_assoc]

theorem channelClearIfGt_withVerdicts (n : Nibble) :
    execChannelClearIfGt n (s.withVerdicts e k) = mapNext (State.withVerdicts e k) (execChannelClearIfGt n s) := by
  simp only [execChannelClearIfGt, apply_ite (mapNext _)]
  rfl

end

/-- A flag that an instruction does not read can be set before or after it: the two orders agree. -/
theorem exec_withVerdicts {i : Instr} {e : Bool} {k : Bool → Bool} (hstat : i ≠ .statRd)
    (herr : i = .errRd ∨ i = .errClr → e = false) (hmsg : i = .msgChk ∨ i = .tmrInit → k = id) (s : State) :
    exec i (s.withVerdicts e k) = mapNext (State.withVerdicts e k) (exec i s) := by
  cases i
  case statRd => exact absurd rfl hstat
  case errRd => rw [herr (.inl rfl)]; rfl
  case errClr => rw [herr (.inr rfl)]; rfl
  case msgChk => rw [hmsg (.inl rfl)]; rfl
  case tmrInit =>
    obtain rfl := hmsg (.inr rfl)
    simp only [exec, execTmrInit, apply_ite (mapNext _)]
    rfl
  case tickUnmask =>
    cases hp : s.tickPending <;>
      simp only [exec, execTickUnmask, withVerdicts_tickPending, hp, reduceIte, Bool.false_eq_true] <;> rfl
  case crcMsg =>
    simp only [exec, execCrcMsg, withVerdicts_termScan]
    split <;> rfl
  case crcCmpc v => simp only [exec, execCrcCmpc, withVerdicts_chanCrc, withVerdicts_compareCrc, mapNext]
  case crcCmpm v =>
    simp only [exec, execCrcCmpm, withVerdicts_termScan, withVerdicts_msgCrc, withVerdicts_compareCrc]
    split
    · simp [mapNext, State.withVerdicts, State.raise, State.respond]
    · rfl
  case tmrLde v =>
    simp only [exec, execTmrLde, apply_ite (mapNext _)]
    rfl
  case chCmd m =>
    simp only [exec, execChCmd]
    split
    case h_3 => exact channelClearIfGt_withVerdicts e k s _
    all_goals rfl
  case channelClearIfGt n => exact channelClearIfGt_withVerdicts e k s n
  all_goals rfl

/-- A test of the bank does the same whatever `msg_valid` holds. -/
theorem check_msgValid_any {i : Instr} (hi : i = .msgChk ∨ i = .tmrInit) (s : State) (b : Bool) :
    exec i { s with msgValid := b } = exec i s := by
  rcases hi with rfl | rfl <;> rfl

end Sys2Proof.Machine

/-! ### The obligations -/

section
open Sys2Proof Sys2Proof.Machine

/-- Settles O52: of the writers of `err_flag`, a compare latches a status other than OK and ERR.CLR and the reset
clear (`errFlag_of_change`); no other operation reads the flag (`exec_withVerdicts`). -/
theorem errorFlagIsLatched : Obligations.ErrorFlagIsLatched := by
  unfold Obligations.ErrorFlagIsLatched
  refine ⟨rfl, fun i s t hrd hclr hstat h => ?gates, fun s t h => ⟨fun hs => ?sets, fun hs => ?clears⟩⟩
  case gates =>
    have := exec_withVerdicts (e := true) (k := id) hstat (fun hi => (hi.elim hrd hclr).elim) (fun _ => rfl) s
    rwa [h] at this
  case sets =>
    constructor
    · intro ht
      rcases errFlag_of_change h (by simp [hs, ht]) with ⟨hf, -⟩ | ⟨⟨w, hout, hw⟩, hcmp⟩
      · simp [ht] at hf
      · exact ⟨hcmp, w, hout, by simpa [hs, ht] using hw⟩
    · rintro ⟨hcmp, w, hout, hw⟩
      obtain ⟨w', hout', ht⟩ := latchesError_of_step h hcmp
      obtain rfl : w = w' := by simpa [hout] using hout'
      rw [ht, decide_eq_true hw, Bool.or_true]
  case clears =>
    constructor
    · intro ht
      rcases errFlag_of_change h (by simp [hs, ht]) with ⟨-, hwriter⟩ | ⟨⟨w, -, hw⟩, -⟩
      · exact hwriter
      · simp [hs, ht] at hw
    · rintro (hi | hr)
      · obtain ⟨es, hx⟩ := exec_of_step h hi
        exact errClr_errFlag hx
      · obtain ⟨es, rfl⟩ := eq_of_step_reset h hr
        rfl

/-- Settles O53: of the writers of `msg_valid`, both leave the verdict of the bank test (`check_msgValid`), and no
operation but STAT.RD reads the flag (`exec_withVerdicts`). -/
theorem messageVerdictIsKept : Obligations.MessageVerdictIsKept := by
  unfold Obligations.MessageVerdictIsKept
  refine ⟨rfl, fun s t h => ⟨fun hi => ?checked, fun hchk hinit hr => ?kept⟩, fun i s t b hstat h => ?gates⟩
  case checked => exact msgValid_of_step h hi
  case kept =>
    by_contra hc
    obtain ⟨i, hi, hw⟩ := instr_of_change h hr (e := .msgValid) (by simp) hc
    rcases writers_msgValid hw with rfl | rfl
    · exact hchk hi
    · exact hinit hi
  case gates =>
    split_ifs with hi
    · rw [check_msgValid_any hi, h]
    · have := exec_withVerdicts (e := false) (k := fun _ => b) hstat (fun _ => rfl) (fun hj => absurd hj hi) s
      rwa [h] at this

end
end

section
/-!
The store as the block sees it: the bytes that an operation may read, and that no operation depends on any other
(spec/20_memory.md rules R63 and R74); the registers of a record (rules R64 and R65); the two erases (rules R81
and R82).
-/

namespace Sys2Proof

/-! ### A register of a record -/

theorem toNat_regOfBytes_big (b0 b1 b2 b3 : Byte) : (regOfBytes .big b0 b1 b2 b3).toNat =
    b0.toNat * 2 ^ 24 + b1.toNat * 2 ^ 16 + b2.toNat * 2 ^ 8 + b3.toNat := by
  have h : (regOfBytes .big b0 b1 b2 b3).toNat = (b0 ++ b1 ++ b2 ++ b3).toNat := rfl
  rw [h, toNat_append, toNat_append, toNat_append]
  omega

/-- The little-endian order reads the four bytes backwards. -/
theorem regOfBytes_little (b0 b1 b2 b3 : Byte) : regOfBytes .little b0 b1 b2 b3 = regOfBytes .big b3 b2 b1 b0 := rfl

theorem regOfBytes_big_eq_sentinel32 (b0 b1 b2 b3 : Byte) :
    regOfBytes .big b0 b1 b2 b3 = sentinel32 ↔ b0 = 0xFF ∧ b1 = 0xFF ∧ b2 = 0xFF ∧ b3 = 0xFF := by
  have := b0.isLt
  have := b1.isLt
  have := b2.isLt
  have := b3.isLt
  simp only [← BitVec.toNat_inj, toNat_regOfBytes_big, show sentinel32.toNat = 0xFFFFFFFF from rfl,
    show (0xFF : Byte).toNat = 0xFF from rfl]
  omega

/-- A register holds the empty-record mark exactly if its four bytes are erased, in either order. -/
theorem regOfBytes_eq_sentinel32 (o : ByteOrder) (b0 b1 b2 b3 : Byte) :
    regOfBytes o b0 b1 b2 b3 = sentinel32 ↔ b0 = 0xFF ∧ b1 = 0xFF ∧ b2 = 0xFF ∧ b3 = 0xFF := by
  cases o with
  | big => exact regOfBytes_big_eq_sentinel32 b0 b1 b2 b3
  | little =>
    rw [regOfBytes_little, regOfBytes_big_eq_sentinel32]
    tauto

end Sys2Proof

namespace Sys2Proof.Machine

/-! ### The two erases -/

theorem storeAction_masked {s : State} (h : s.tickMask = true) (act : State → Result) : storeAction s act = act s :=
  if_pos h

theorem eraseChannels_eq {s : State} (h : s.tickMask = true) : runEnv .eraseChannels s =
    .next { s with store := s.store.eraseRange s.cfg.nvmBase s.cfg.chRegionSize, out := .reported .done } := by
  rw [runEnv, eraseChannels, storeAction_masked h]
  rfl

theorem eraseMessage_eq {s : State} (h : s.tickMask = true) : runEnv .eraseMessage s =
    .next { s with store := s.store.eraseRange s.cfg.msgBase s.cfg.msgUsable, out := .reported .done } := by
  rw [runEnv, eraseMessage, storeAction_masked h]
  rfl

/-! ### The same block over another store -/

/-- `s` over the store `m`. -/
def State.withStore (m : Memory) (s : State) : State := { s with store := m }

section
variable (m : Memory) (s : State)

@[simp] theorem withStore_cfg : (s.withStore m).cfg = s.cfg := rfl
@[simp] theorem withStore_store : (s.withStore m).store = m := rfl
@[simp] theorem withStore_tickPending : (s.withStore m).tickPending = s.tickPending := rfl

theorem withStore_compareCrc (c v : Half) : (s.withStore m).compareCrc c v = (s.compareCrc c v).withStore m := by
  simp [compareCrc_eq, State.withStore]

theorem channelClearIfGt_withStore (k : Nibble) :
    execChannelClearIfGt k (s.withStore m) = mapNext (State.withStore m) (execChannelClearIfGt k s) := by
  simp only [execChannelClearIfGt, apply_ite (mapNext _)]
  rfl

end

/-- The two stores agree on every byte that the block may read (rule R74). -/
def AgreeOnReads (c : Config) (m n : Memory) : Prop := ∀ a : Nat, blockReads c a → m.read a = n.read a

section
variable {s : State} {m : Memory} (h : AgreeOnReads s.cfg m s.store)
include h

theorem chanByte_withStore {c k : Nat} (hc : c < s.cfg.channels) (hk : k < 24) :
    (s.withStore m).chanByte c k = s.chanByte c k :=
  h _ (.inl (by simp only [withStore_cfg, Config.chByteAddr]; omega))

theorem chanReg_withStore {c r : Nat} (hc : c < s.cfg.channels) (hr : r < 6) :
    (s.withStore m).chanReg c r = s.chanReg c r := by
  simp only [State.chanReg, withStore_cfg]
  rw [chanByte_withStore h hc (by omega), chanByte_withStore h hc (by omega), chanByte_withStore h hc (by omega),
    chanByte_withStore h hc (by omega)]

theorem emptyRecord_withStore {c : Nat} (hc : c < s.cfg.channels) :
    (s.withStore m).emptyRecord c = s.emptyRecord c := by
  simp only [State.emptyRecord, chanReg_withStore h hc (by decide : 5 < 6)]

theorem chanRecord_withStore {c : Nat} (hc : c < s.cfg.channels) :
    (s.withStore m).chanRecord c = s.chanRecord c := by
  simp only [State.chanRecord, chanReg_withStore h hc, Nat.reduceLT]

/-- `select` reads records of channels that exist only: the index asked for is reduced mod `N`, and the fallback
is at most that. -/
theorem select_withStore (hN : 1 ≤ s.cfg.channels) (i : Nat) : (s.withStore m).select i = s.select i := by
  have hc : i % s.cfg.channels < s.cfg.channels := Nat.mod_lt i hN
  have hc2 : s.returnedIndex (i % s.cfg.channels) < s.cfg.channels := (returnedIndex_le s _).trans_lt hc
  have hidx : (s.withStore m).returnedIndex (i % s.cfg.channels) = s.returnedIndex (i % s.cfg.channels) := by
    simp only [State.returnedIndex, emptyRecord_withStore h hc]
  simp only [State.select, withStore_cfg, hidx, emptyRecord_withStore h hc, emptyRecord_withStore h hc2,
    chanRecord_withStore h hc2]

theorem chanCrc_withStore : (s.withStore m).chanCrc = s.chanCrc :=
  congrArg crc16 (Memory.readRange_congr fun a hlo hhi => h a (.inl ⟨hlo, hhi⟩))

theorem msgByte_withStore {k : Nat} (hk : k < s.cfg.msgUsable) : (s.withStore m).msgByte k = s.msgByte k :=
  h _ (.inr (by
    simp only [Config.msgUsable] at hk
    simp only [withStore_cfg, Config.msgByteAddr, Config.msgBase, Config.chRegionSize]
    omega))

theorem msgCrc_withStore {len : Nat} (hlen : len ≤ s.cfg.msgUsable) : (s.withStore m).msgCrc len = s.msgCrc len :=
  congrArg crc16 (Memory.readRange_congr fun a hlo hhi => h a (.inr (by
    simp only [Config.msgUsable] at hlen
    simp only [withStore_cfg, Config.msgBase, Config.chRegionSize] at hlo hhi
    omega)))

/-- The scan tests a pair only where both of its bytes are usable ones. -/
theorem termScan_withStore : (s.withStore m).termScan = s.termScan := by
  have hterm : ∀ i, i + 2 ≤ s.cfg.msgUsable → (s.withStore m).termAt i = s.termAt i := fun i hi => by
    simp only [State.termAt, withStore_cfg, msgByte_withStore h (show i < _ by omega),
      msgByte_withStore h (show i + 1 < _ by omega)]
  refine congrArg (Option.map (· + 2)) (List.find?_congr fun i _ => ?_)
  by_cases hi : i + 2 ≤ s.cfg.msgUsable
  · rw [hterm i hi, withStore_cfg]
  · simp [hi]

variable (hmsg : 18 ≤ s.cfg.msgSize)
include hmsg

/-- The bank's header, which has the duration and the delay, is usable under the constraints of rule R6. -/
theorem msgByte_header_withStore {k : Nat} (hk : k < 16) : (s.withStore m).msgByte k = s.msgByte k :=
  msgByte_withStore h (by simp only [Config.msgUsable]; omega)

theorem elemDur_withStore : (s.withStore m).elemDur = s.elemDur := by
  simp only [State.elemDur, msgByte_header_withStore h hmsg, Nat.reduceLT]

theorem msgDelay_withStore : (s.withStore m).msgDelay = s.msgDelay := by
  simp only [State.msgDelay, msgByte_header_withStore h hmsg, Nat.reduceLT]

theorem durOk_withStore : (s.withStore m).durOk = s.durOk := by
  simp only [State.durOk, elemDur_withStore h hmsg]

theorem msgOk_withStore : (s.withStore m).msgOk = s.msgOk := by
  simp only [State.msgOk, termScan_withStore h, durOk_withStore h hmsg]

theorem msgAux_withStore : (s.withStore m).msgAux = s.msgAux := by
  simp only [State.msgAux, termScan_withStore h, durOk_withStore h hmsg]

end

/-- An instruction does the same over every store that agrees on the bytes the block may read: the arms that read
the store read it through `chanCrc`, `termScan`, `msgCrc`, the bank's header and `select`; the others do not look
at it. -/
theorem exec_withStore {s : State} {m : Memory} (hv : s.cfg.Valid) (h : AgreeOnReads s.cfg m s.store) (i : Instr) :
    exec i (s.withStore m) = mapNext (State.withStore m) (exec i s) := by
  obtain ⟨⟨hN, -⟩, -, -, ⟨hmsg, -⟩, -⟩ := hv
  cases i
  case crcChan =>
    simp only [exec, execCrcChan, chanCrc_withStore h]
    rfl
  case crcMsg =>
    simp only [exec, execCrcMsg, termScan_withStore h]
    cases hlen : s.termScan with
    | none => rfl
    | some len =>
      simp only [msgCrc_withStore h (termScan_bounds hlen).2]
      rfl
  case crcCmpc v => simp only [exec, execCrcCmpc, chanCrc_withStore h, withStore_compareCrc, mapNext]
  case crcCmpm v =>
    simp only [exec, execCrcCmpm, termScan_withStore h]
    cases hlen : s.termScan with
    | none => rfl
    | some len => simp only [msgCrc_withStore h (termScan_bounds hlen).2, withStore_compareCrc, mapNext]
  case msgChk =>
    simp only [exec, execMsgChk, termScan_withStore h, msgOk_withStore h hmsg, msgAux_withStore h hmsg]
    rfl
  case tmrInit =>
    simp only [exec, execTmrInit, msgOk_withStore h hmsg, msgAux_withStore h hmsg, elemDur_withStore h hmsg,
      msgDelay_withStore h hmsg, apply_ite (mapNext _)]
    rfl
  case selIdx a =>
    simp only [exec, execSelIdx, select_withStore h hN]
    rfl
  case selAct =>
    simp only [exec, execSelAct, select_withStore h hN]
    rfl
  case selNext =>
    simp only [exec, execSelNext, select_withStore h hN]
    rfl
  case tickUnmask =>
    cases hp : s.tickPending <;>
      simp only [exec, execTickUnmask, withStore_tickPending, hp, reduceIte, Bool.false_eq_true] <;> rfl
  case tmrLde v =>
    simp only [exec, execTmrLde, apply_ite (mapNext _)]
    rfl
  case chCmd a =>
    simp only [exec, execChCmd]
    split
    case h_3 => exact channelClearIfGt_withStore m s _
    all_goals rfl
  case channelClearIfGt k => exact channelClearIfGt_withStore m s k
  all_goals rfl

end Sys2Proof.Machine

/-! ### The obligations -/

section
open Sys2Proof Sys2Proof.Machine

/-- Settles O54: over the second store the instruction answers what it answers over the first (`exec_withStore`). -/
theorem reservedBytesAreNeverRead : Obligations.ReservedBytesAreNeverRead := by
  unfold Obligations.ReservedBytesAreNeverRead
  intro i s t m hv hagree hexec
  have h := exec_withStore hv hagree i
  rwa [hexec] at h

/-- Settles O59: an erase is one `eraseRange` of the store, over the channel region or the usable message region. -/
theorem eraseTouchesItsOwnRegionOnly : Obligations.EraseTouchesItsOwnRegionOnly := by
  unfold Obligations.EraseTouchesItsOwnRegionOnly
  constructor
  · intro s es hmask he
    exact ⟨_, (step_env he).trans (eraseChannels_eq hmask), Memory.read_eraseRange _ _ _, rfl⟩
  · intro s es hmask he
    exact ⟨_, (step_env he).trans (eraseMessage_eq hmask), Memory.read_eraseRange _ _ _, rfl⟩

/-- Settles O30: the value of a register in either order, and the mark in both (`regOfBytes_eq_sentinel32`). -/
theorem channelRegisterIsItsFourBytes : Obligations.ChannelRegisterIsItsFourBytes := by
  unfold Obligations.ChannelRegisterIsItsFourBytes
  refine ⟨rfl, fun s c r => ⟨fun hbig => ?big, fun hlittle => ?little, ?mark⟩⟩
  case big =>
    rw [State.chanReg, hbig, toNat_regOfBytes_big]
    rfl
  case little =>
    rw [State.chanReg, hlittle, regOfBytes_little, toNat_regOfBytes_big]
    rfl
  case mark =>
    refine (regOfBytes_eq_sentinel32 _ _ _ _ _).trans ⟨?_, fun hall => ?_⟩
    · rintro ⟨h0, h1, h2, h3⟩ k hk
      interval_cases k <;> assumption
    · exact ⟨hall 0 (by decide), hall 1 (by decide), hall 2 (by decide), hall 3 (by decide)⟩

end
end

section
/-!
The two decoders as tables: a request word by the operand its operation uses, and when it is rejected
(spec/30_encoding.md rules R91 and R98); a command byte by its high nibble (rule R96).
-/

namespace Sys2Proof

/-! ### The opcodes of rule R95, by the operand they use -/

/-- The opcodes whose operation uses `a`. -/
abbrev opsUsingA : List Nat := [0x11, 0x30, 0x34]

/-- The opcodes whose operation uses `v`. -/
abbrev opsUsingV : List Nat := [0x15, 0x16, 0x20, 0x21, 0x22]

/-- The opcodes whose operation uses neither operand. -/
abbrev opsUsingNone : List Nat :=
  [0x00, 0x01, 0x02, 0x03, 0x04, 0x05, 0x10, 0x12, 0x13, 0x14, 0x17, 0x23, 0x24, 0x25, 0x26, 0x27, 0x28,
    0x31, 0x32, 0x33, 0x35]

theorem opsUsingA_disjoint_opsUsingV : ∀ op ∈ opsUsingA, op ∉ opsUsingV := by decide

theorem opsUsingNone_disjoint_opsUsingA : ∀ op ∈ opsUsingNone, op ∉ opsUsingA := by decide

theorem opsUsingNone_disjoint_opsUsingV : ∀ op ∈ opsUsingNone, op ∉ opsUsingV := by decide

/-! ### The four ways to decode a request word -/

/-- What decoding `w` can come to: one of the three operand checks of rule R98 (b), or the rejection of a reserved
`op` by rule R98 (a). -/
inductive DecodesTo (w : Word) : Except DecodeError Instr → Prop where
  | usingA (f : Byte → Instr) (hop : (reqOp w).toNat ∈ opsUsingA) : DecodesTo w (decodeA f w)
  | usingV (f : Half → Instr) (hop : (reqOp w).toNat ∈ opsUsingV) : DecodesTo w (decodeV f w)
  | usingNone (i : Instr) (hop : (reqOp w).toNat ∈ opsUsingNone) : DecodesTo w (decodePlain i w)
  | reserved (hA : (reqOp w).toNat ∉ opsUsingA) (hV : (reqOp w).toNat ∉ opsUsingV)
      (hNone : (reqOp w).toNat ∉ opsUsingNone) : DecodesTo w (.error (.reservedOpcode (reqOp w)))

/-- The decoder takes one of the four ways; its cases `h_n` are the rows of rule R95 in order, the last one the rest. -/
theorem decodesTo_decode (w : Word) : DecodesTo w (decode w) := by
  unfold decode
  split
  case h_8 | h_24 | h_28 => exact .usingA _ (by simp [*])
  case h_12 | h_13 | h_15 | h_16 | h_17 => exact .usingV _ (by simp [*])
  case h_30 =>
    simp only [imp_false] at *
    exact .reserved (by simp [*]) (by simp [*]) (by simp [*])
  all_goals exact .usingNone _ (by simp [*])

/-! ### Rejection (rule R98) -/

theorem decodeA_rejects_iff (f : Byte → Instr) (w : Word) : (∃ err, decodeA f w = .error err) ↔ reqV w ≠ 0 := by
  unfold decodeA
  split_ifs with h
  · simp [h]
  · simpa using h

theorem decodeV_rejects_iff (f : Half → Instr) (w : Word) : (∃ err, decodeV f w = .error err) ↔ reqA w ≠ 0 := by
  unfold decodeV
  split_ifs with h
  · simp [h]
  · simpa using h

theorem decodePlain_rejects_iff (i : Instr) (w : Word) :
    (∃ err, decodePlain i w = .error err) ↔ reqA w ≠ 0 ∨ reqV w ≠ 0 := by
  unfold decodePlain
  split_ifs with h
  · simp [h]
  · simpa using not_and_or.mp h

/-- A word is rejected for a reserved `op`, or for an operand that is not zero and that its operation does not use. -/
theorem DecodesTo.rejects_iff {w : Word} {r : Except DecodeError Instr} (h : DecodesTo w r) :
    (∃ err, r = .error err) ↔
      ¬ ((reqOp w).toNat ∈ opsUsingA ∨ (reqOp w).toNat ∈ opsUsingV ∨ (reqOp w).toNat ∈ opsUsingNone) ∨
        ((reqOp w).toNat ∉ opsUsingA ∧ reqA w ≠ 0) ∨ ((reqOp w).toNat ∉ opsUsingV ∧ reqV w ≠ 0) := by
  cases h with
  | usingA f hop =>
    have hV := opsUsingA_disjoint_opsUsingV _ hop
    rw [decodeA_rejects_iff]
    tauto
  | usingV f hop =>
    have hA := fun h => opsUsingA_disjoint_opsUsingV _ h hop
    rw [decodeV_rejects_iff]
    tauto
  | usingNone i hop =>
    have hA := opsUsingNone_disjoint_opsUsingA _ hop
    have hV := opsUsingNone_disjoint_opsUsingV _ hop
    rw [decodePlain_rejects_iff]
    tauto
  | reserved hA hV hNone => exact iff_of_true ⟨_, rfl⟩ (.inl (by tauto))

theorem reqA_eq_zero_iff (w : Word) : reqA w = 0 ↔ w.toNat / 2 ^ 16 % 256 = 0 := by
  rw [← toNat_reqA, ← BitVec.toNat_inj]
  rfl

theorem reqV_eq_zero_iff (w : Word) : reqV w = 0 ↔ w.toNat % 2 ^ 16 = 0 := by
  rw [← toNat_reqV, ← BitVec.toNat_inj]
  rfl

/-! ### The nibbles of a command byte, from its number -/

theorem cmdCode_eq_ofNat (b : Byte) : cmdCode b = BitVec.ofNat 4 (b.toNat / 16) := by
  rw [← toNat_cmdCode, BitVec.ofNat_toNat, BitVec.setWidth_eq]

theorem cmdOperand_eq_ofNat (b : Byte) : cmdOperand b = BitVec.ofNat 4 (b.toNat % 16) := by
  rw [← toNat_cmdOperand, BitVec.ofNat_toNat, BitVec.setWidth_eq]

end Sys2Proof

namespace Sys2Proof.Machine

/-- A step on a rejected word is the InvalidOp response and nothing else. -/
theorem step_rejected {s : State} {w : Word} {es : List Event} {err : DecodeError}
    (he : s.events = .request w :: es) (hd : decode w = .error err) :
    step s = .next (State.raise { s with events := es } .invalidOp) := by
  simp only [step, runNext, he, runEvent, runRequest, hd]

end Sys2Proof.Machine

/-! ### The obligations -/

section
open Sys2Proof Sys2Proof.Machine

/-- Settles O45: the ways a request word decodes give the grounds of rejection (`DecodesTo.rejects_iff`), and a
rejected word is carried out as the InvalidOp response (`step_rejected`). -/
theorem rejectedWordsAnswerInvalidOp : Obligations.RejectedWordsAnswerInvalidOp := by
  unfold Obligations.RejectedWordsAnswerInvalidOp
  intro w
  refine ⟨?grounds, fun s es err he hd => step_rejected he hd⟩
  have h := (decodesTo_decode w).rejects_iff
  rwa [toNat_reqOp, ne_eq, reqA_eq_zero_iff, ne_eq, reqV_eq_zero_iff] at h

/-- Settles O42: both sides of each row are read off the high nibble, one of sixteen values. -/
theorem everyCommandByteHasItsRow : Obligations.EveryCommandByteHasItsRow := by
  unfold Obligations.EveryCommandByteHasItsRow
  intro b
  have hlt := (cmdCode b).isLt
  rw [← cmdOperand_eq_ofNat, ← cmdCode_eq_ofNat, ← toNat_cmdCode]
  unfold decodeCmd8
  generalize (cmdCode b).toNat = code at hlt ⊢
  interval_cases code <;> simp

end
end

section
/-!
The Integrity unit: the CRC step and its fold (spec/40_integrity.md rules R120 and R121), the terminator scan (rule
R123), and its eight operations (rules R125 to R132).
-/

namespace Sys2Proof

/-! ### The request words that carry an operand -/

theorem decode_crcByte (b : Byte) : decode (BitVec.ofNat 32 (0x11000000 + b.toNat * 2 ^ 16)) = .ok (.crcByte b) :=
  decode_operandA (op := 0x11) rfl (fun _ => by simp [decode, decodeA]) b

theorem decode_crcCmpc (v : Half) : decode (BitVec.ofNat 32 (0x15000000 + v.toNat)) = .ok (.crcCmpc v) :=
  decode_operandV (op := 0x15) rfl (fun _ => by simp [decode, decodeV]) v

theorem decode_crcCmpm (v : Half) : decode (BitVec.ofNat 32 (0x16000000 + v.toNat)) = .ok (.crcCmpm v) :=
  decode_operandV (op := 0x16) rfl (fun _ => by simp [decode, decodeV]) v

/-! ### The default end-of-message codes -/

/-- The sixteen codes are the command bytes of the row END_OF_MESSAGE. -/
theorem defaultEomCodes_eq_map : Config.defaultEomCodes = (List.range 16).map fun k => cmdByte 0xF (BitVec.ofNat 4 k) :=
  rfl

theorem mem_defaultEomCodes_iff (b : Byte) : b ∈ Config.defaultEomCodes ↔ b.toNat / 16 = 15 := by
  rw [defaultEomCodes_eq_map, List.mem_map, ← toNat_cmdCode]
  constructor
  · rintro ⟨k, -, rfl⟩
    rw [cmdCode_cmdByte]
    rfl
  · intro hcode
    have hF : cmdCode b = 0xF := BitVec.eq_of_toNat_eq hcode
    refine ⟨(cmdOperand b).toNat, List.mem_range.mpr (cmdOperand b).isLt, ?_⟩
    rw [BitVec.ofNat_toNat, BitVec.setWidth_eq, ← hF, cmdByte_fields]

end Sys2Proof

namespace Sys2Proof.Machine

/-! ### The CRC step -/

/-- `crc_step` before the first of its rounds and after each one (rule R120). -/
def crcRounds (c : Half) (b : Byte) (i : Nat) : Half := Nat.repeat crcRound i (c ^^^ (b.setWidth 16 <<< 8))

theorem crcStep_eq_crcRounds (c : Half) (b : Byte) : crcStep c b = crcRounds c b 8 := rfl

theorem crcRounds_succ (c : Half) (b : Byte) (i : Nat) : crcRounds c b (i + 1) = crcRound (crcRounds c b i) := rfl

theorem crcRounds_zero (c : Half) (b : Byte) : crcRounds c b 0 = c ^^^ BitVec.ofNat 16 (b.toNat * 256) := by
  have hshift : (b.setWidth 16 <<< 8 : Half) = BitVec.ofNat 16 (b.toNat * 256) := by
    apply BitVec.eq_of_toNat_eq
    rw [BitVec.toNat_shiftLeft, BitVec.toNat_setWidth, BitVec.toNat_ofNat, Nat.shiftLeft_eq]
    omega
  rw [← hshift]
  rfl

/-- A round with its shift written as a doubling mod 2 ^ 16. -/
theorem crcRound_eq_double (t : Half) : crcRound t =
    if t.getLsbD 15 then BitVec.ofNat 16 (t.toNat * 2) ^^^ 0x1021 else BitVec.ofNat 16 (t.toNat * 2) := by
  have hdouble : t <<< 1 = BitVec.ofNat 16 (t.toNat * 2) := by
    apply BitVec.eq_of_toNat_eq
    rw [BitVec.toNat_shiftLeft, BitVec.toNat_ofNat, Nat.shiftLeft_eq]
  rw [crcRound, BitVec.msb_eq_getLsbD_last, hdouble]

/-! ### The terminator scan -/

theorem termAt_iff (s : State) (i : Nat) :
    s.termAt i = true ↔ s.msgByte i = s.cfg.esc ∧ s.msgByte (i + 1) ∈ s.cfg.eomCodes := by
  simp [State.termAt, Config.eomMatch]

/-- The scan answers the length through the pair at `i` exactly if that is the first one it looks at. -/
theorem termScan_eq_some_iff (s : State) (i : Nat) : s.termScan = some (i + 2) ↔
    14 ≤ i ∧ i + 2 ≤ s.cfg.msgUsable ∧ s.termAt i = true ∧ ∀ j, 14 ≤ j → j < i → ¬ s.termAt j = true := by
  simp only [State.termScan, Option.map_eq_some_iff, List.find?_range_eq_some, List.mem_range, Bool.and_eq_true,
    decide_eq_true_eq, Bool.not_eq_true', Bool.and_eq_false_iff, decide_eq_false_iff_not, Nat.add_right_cancel_iff,
    exists_eq_right, Bool.not_eq_true]
  constructor
  · rintro ⟨⟨⟨hlo, hhi⟩, hpair⟩, -, hfirst⟩
    refine ⟨hlo, hhi, hpair, fun j hj hji => (hfirst j hji).resolve_left ?_⟩
    omega
  · rintro ⟨hlo, hhi, hpair, hfirst⟩
    refine ⟨⟨⟨hlo, hhi⟩, hpair⟩, by omega, fun j hji => ?_⟩
    by_cases hj : 14 ≤ j
    · exact .inr (hfirst j hj hji)
    · exact .inl (.inl hj)

theorem termScan_eq_none_iff (s : State) : s.termScan = none ↔
    ∀ j, 14 ≤ j → j + 2 ≤ s.cfg.msgUsable → ¬ s.termAt j = true := by
  simp only [State.termScan, Option.map_eq_none_iff, List.find?_eq_none, List.mem_range, Bool.and_eq_true,
    decide_eq_true_eq, not_and, and_imp]
  exact ⟨fun h j hlo hhi => h j (by omega) hlo hhi, fun h j _ hlo hhi => h j hlo hhi⟩

/-! ### The responses -/

/-- The response word of rule R92 is all that `respond` puts into the state. -/
theorem respond_eq_resp32 (s : State) (st : Status) (aux : Byte) (v : Half) :
    s.respond st aux v = { s with out := .answered (resp32 st.code.toNat aux.toNat v.toNat) none } := by
  rw [State.respond, respWord_eq]

/-- The response without error. -/
theorem respond_ok_eq (s : State) (v : Half) :
    s.respond .ok 0 v = { s with out := .answered (resp32 0 0 v.toNat) none } := respond_eq_resp32 s .ok 0 v

/-! ### The operations on the regions -/

theorem exec_crcMsg_of_none {s : State} (h : s.termScan = none) :
    exec .crcMsg s = .next (s.raise .invalidMessage) := by
  simp only [exec, execCrcMsg, h]

theorem exec_crcMsg_of_some {s : State} {len : Nat} (h : s.termScan = some len) :
    exec .crcMsg s = .next ({ s with crcAcc := s.msgCrc len }.respond .ok 0 (s.msgCrc len)) := by
  simp only [exec, execCrcMsg, h]

theorem exec_crcCmpm_of_none {s : State} (h : s.termScan = none) (v : Half) :
    exec (.crcCmpm v) s = .next ({ s with errFlag := true }.raise .invalidMessage) := by
  simp only [exec, execCrcCmpm, h]

theorem exec_crcCmpm_of_some {s : State} {len : Nat} (h : s.termScan = some len) (v : Half) :
    exec (.crcCmpm v) s = .next (s.compareCrc (s.msgCrc len) v) := by
  simp only [exec, execCrcCmpm, h]

/-- The value of MSG.CHK fits its 16 bits: a length ends inside the usable area, which rule R6 keeps under
2 ^ 16 bytes. -/
theorem termScan_getD_lt {s : State} (hv : s.cfg.Valid) : s.termScan.getD 0 < 2 ^ 16 := by
  obtain ⟨-, -, -, ⟨-, hmax⟩, -⟩ := hv
  cases hlen : s.termScan with
  | none => decide
  | some len =>
    obtain ⟨-, hle⟩ := termScan_bounds hlen
    simp only [Config.msgUsable] at hle
    rw [Option.getD_some]
    omega

/-- The status of MSG.CHK as its number. -/
theorem toNat_code_msgOk (s : State) :
    (if s.msgOk then Status.ok else Status.invalidMessage).code.toNat = if bankOk s then 0 else 2 := by
  rw [msgOk_eq]
  by_cases h : bankOk s
  · rw [decide_eq_true h, if_pos h]
    rfl
  · rw [decide_eq_false h, if_neg h]
    rfl

end Sys2Proof.Machine

/-! ### The obligations -/

section
open Sys2Proof Sys2Proof.Machine

/-- Settles O29: the two answers of the scan in terms of `termAt` (`termScan_eq_some_iff`, `termScan_eq_none_iff`); a
length under 16 is no answer and leaves no room for a pair. -/
theorem terminatorScanFindsTheFirstPair : Obligations.TerminatorScanFindsTheFirstPair := by
  unfold Obligations.TerminatorScanFindsTheFirstPair
  refine ⟨⟨rfl, mem_defaultEomCodes_iff⟩, fun s => ⟨fun len => ?some, ?none⟩⟩
  case some =>
    by_cases hlen : 16 ≤ len
    · obtain ⟨i, rfl⟩ : ∃ i, len = i + 2 := ⟨len - 2, by omega⟩
      simp only [termScan_eq_some_iff, termAt_iff, Config.msgUsable, Nat.add_sub_cancel, Nat.reduceLeDiff,
        show i + 2 - 1 = i + 1 from rfl]
    · exact iff_of_false (fun h => hlen (termScan_bounds h).1) (fun h => hlen h.1)
  case none => simp only [termScan_eq_none_iff, termAt_iff, Config.msgUsable]

/-- Settles O6: both responses are without error. -/
theorem crcAccumulatorIsClearedAndRead : Obligations.CrcAccumulatorIsClearedAndRead := by
  unfold Obligations.CrcAccumulatorIsClearedAndRead
  exact ⟨rfl, rfl, fun _ => rfl, fun s => congrArg Host.Outcome.next (respond_ok_eq s s.crcAcc)⟩

/-- Settles O7: the word by `decode_crcByte`, the answer by `respond_ok_eq`. -/
theorem crcByteFoldsOneByte : Obligations.CrcByteFoldsOneByte := by
  unfold Obligations.CrcByteFoldsOneByte
  exact ⟨decode_crcByte, fun _ _ => congrArg Host.Outcome.next (respond_ok_eq _ _)⟩

/-- Settles O8: `chanCrc` is the CRC of the channel region's bytes (`chanCrc_eq`). -/
theorem crcOfTheChannelRegion : Obligations.CrcOfTheChannelRegion := by
  unfold Obligations.CrcOfTheChannelRegion
  refine ⟨rfl, fun s => ?_⟩
  rw [← chanCrc_eq]
  exact congrArg Host.Outcome.next (respond_ok_eq _ _)

/-- Settles O9: the two outcomes of the scan give the two answers. -/
theorem crcOfTheMessageRegion : Obligations.CrcOfTheMessageRegion := by
  unfold Obligations.CrcOfTheMessageRegion
  refine ⟨rfl, fun s hnone => exec_crcMsg_of_none hnone, fun s len hsome => ?_⟩
  rw [exec_crcMsg_of_some hsome, respond_ok_eq, msgCrc_eq]

/-- Settles O10: CRC.CMPC is the compare with the channel region's CRC (`compareCrc_eq`). -/
theorem compareOfTheChannelCrc : Obligations.CompareOfTheChannelCrc := by
  unfold Obligations.CompareOfTheChannelCrc
  refine ⟨decode_crcCmpc, fun v s => ?_⟩
  rw [← chanCrc_eq]
  exact congrArg Host.Outcome.next (compareCrc_eq s s.chanCrc v)

/-- Settles O11: a missing terminator answers before the compare; with one, CRC.CMPM is the compare with the message's
CRC (`compareCrc_eq`). -/
theorem compareOfTheMessageCrc : Obligations.CompareOfTheMessageCrc := by
  unfold Obligations.CompareOfTheMessageCrc
  refine ⟨decode_crcCmpm, fun v s hnone => exec_crcCmpm_of_none hnone v, fun v s len hsome => ?_⟩
  rw [exec_crcCmpm_of_some hsome, compareCrc_eq, msgCrc_eq]

/-- Settles O12: the verdict, the status, the two causes and the length, each as its number. -/
theorem messageBankCheck : Obligations.MessageBankCheck := by
  unfold Obligations.MessageBankCheck
  refine ⟨rfl, fun s hv => ?_⟩
  have hlen : (BitVec.ofNat 16 (s.termScan.getD 0)).toNat = s.termScan.getD 0 := by
    rw [BitVec.toNat_ofNat, Nat.mod_eq_of_lt (termScan_getD_lt hv)]
  simp only [exec, execMsgChk, respond_eq_resp32, toNat_code_msgOk, toNat_msgAux, hlen]
  rw [msgOk_eq]

/-- Settles O25: the sequence of rule R120 is `crcRounds`, and the fold takes its last byte last (`crc16_append`). -/
theorem crcStepIsTheSpecifiedAlgorithm : Obligations.CrcStepIsTheSpecifiedAlgorithm := by
  unfold Obligations.CrcStepIsTheSpecifiedAlgorithm
  refine ⟨fun c b => ⟨crcRounds c b, crcRounds_zero c b, fun i _ => ?round, crcStep_eq_crcRounds c b⟩, rfl,
    fun bytes b => crc16_append bytes [b]⟩
  case round => rw [crcRounds_succ, crcRound_eq_double]

end
end

section
/-!
The Timing unit: the tick event and the delivered tick (spec/41_timing.md rules R150 and R151), and its nine operations
(rules R155 to R163).
-/

namespace Sys2Proof

/-! ### The request words that carry an operand -/

theorem decode_tmrLdw (v : Half) : decode (BitVec.ofNat 32 (0x20000000 + v.toNat)) = .ok (.tmrLdw v) :=
  decode_operandV (op := 0x20) rfl (fun _ => by simp [decode, decodeV]) v

theorem decode_tmrLdm (v : Half) : decode (BitVec.ofNat 32 (0x21000000 + v.toNat)) = .ok (.tmrLdm v) :=
  decode_operandV (op := 0x21) rfl (fun _ => by simp [decode, decodeV]) v

theorem decode_tmrLde (v : Half) : decode (BitVec.ofNat 32 (0x22000000 + v.toNat)) = .ok (.tmrLde v) :=
  decode_operandV (op := 0x22) rfl (fun _ => by simp [decode, decodeV]) v

end Sys2Proof

namespace Sys2Proof.Machine

/-! ### The tick -/

theorem tickEvent_of_unmasked {s : State} (h : s.tickMask = false) : s.tickEvent = s.doTick := by
  rw [State.tickEvent, h]
  rfl

theorem tickEvent_of_masked {s : State} (h : s.tickMask = true) :
    s.tickEvent = { s with tickPending := s.tickPending || s.cfg.maskPendingDepth == 1 } := by
  rw [State.tickEvent, if_pos h]

/-- Under the default depth the masked tick is remembered, whether or not one was before it. -/
theorem tickEvent_remembered {s : State} (hmask : s.tickMask = true) (hdepth : s.cfg.maskPendingDepth = 1) :
    s.tickEvent = { s with tickPending := true } := by
  rw [tickEvent_of_masked hmask, hdepth, beq_self_eq_true, Bool.or_true]

/-! ### The loads of an element duration -/

/-- A duration that is loaded: not 0, or 0 where ZERO_ELEM_OK gives it a meaning (rule R153). -/
theorem not_zeroElement_iff (s : State) (v : Half) :
    ¬ (v = 0 ∧ s.cfg.zeroElemOk = false) ↔ v ≠ 0 ∨ s.cfg.zeroElemOk = true := by
  rw [not_and_or, Bool.not_eq_false]

theorem exec_tmrLde_loaded {s : State} {v : Half} (h : v ≠ 0 ∨ s.cfg.zeroElemOk = true) :
    exec (.tmrLde v) s = .next ({ s with elemReload := v, elemTimer := v }.respond .ok 0 v) :=
  if_neg ((not_zeroElement_iff s v).mpr h)

theorem exec_tmrInit_invalid {s : State} (h : ¬ bankOk s) :
    exec .tmrInit s = .next ({ s with msgValid := false }.respond .invalidMessage s.msgAux s.elemDur) :=
  if_pos (by rw [msgOk_eq, decide_eq_false h])

theorem exec_tmrInit_valid {s : State} (hok : bankOk s) (hdur : s.elemDur ≠ 0 ∨ s.cfg.zeroElemOk = true) :
    exec .tmrInit s = .next ({ s with
      msgValid := true
      elemReload := s.elemDur
      elemTimer := s.elemDur
      delayReload := s.msgDelay
      edgeFlag := false }.respond .ok s.msgAux s.elemDur) := by
  have hmsg : ¬ s.msgOk = false := by rw [msgOk_eq, decide_eq_true hok]; decide
  simp only [exec, execTmrInit]
  rw [if_neg hmsg, if_neg ((not_zeroElement_iff s s.elemDur).mpr hdur)]

/-- A valid bank has neither of the two causes: both `aux` bits are set. -/
theorem bankAux_of_bankOk {s : State} (h : bankOk s) : bankAux s = 3 := by
  obtain ⟨hterm, hdur⟩ := h
  rw [bankAux, hterm, decide_eq_true hdur]
  rfl

theorem elemDur_eq_ofNat (s : State) : s.elemDur = BitVec.ofNat 16 (durNat s) := by
  rw [← toNat_elemDur, BitVec.ofNat_toNat, BitVec.setWidth_eq]

theorem msgDelay_eq_ofNat (s : State) : s.msgDelay = BitVec.ofNat 16 (delayNat s) := by
  rw [← toNat_msgDelay, BitVec.ofNat_toNat, BitVec.setWidth_eq]

end Sys2Proof.Machine

/-! ### The obligations -/

section
open Sys2Proof Sys2Proof.Machine

/-- Settles O13: the two loads by their words' decoding, and every answer by `respond_ok_eq`. -/
theorem waitAndMessageTimersAreLoaded : Obligations.WaitAndMessageTimersAreLoaded := by
  unfold Obligations.WaitAndMessageTimersAreLoaded
  exact ⟨decode_tmrLdw, decode_tmrLdm, rfl, fun _ _ => congrArg Host.Outcome.next (respond_ok_eq _ _),
    fun _ _ => congrArg Host.Outcome.next (respond_ok_eq _ _),
    fun s => congrArg Host.Outcome.next (respond_ok_eq _ s.delayReload)⟩

/-- Settles O14: a duration that is not refused is loaded into both (`exec_tmrLde_loaded`). -/
theorem elementTimerIsLoadedWithItsReload : Obligations.ElementTimerIsLoadedWithItsReload := by
  unfold Obligations.ElementTimerIsLoadedWithItsReload
  refine ⟨decode_tmrLde, fun v s h => ?_⟩
  rw [exec_tmrLde_loaded h, respond_ok_eq]

/-- Settles O16: the three reads are responses without error. -/
theorem timersAreRead : Obligations.TimersAreRead := by
  unfold Obligations.TimersAreRead
  exact ⟨rfl, rfl, rfl, fun s => congrArg Host.Outcome.next (respond_ok_eq s s.waitTimer),
    fun s => congrArg Host.Outcome.next (respond_ok_eq s s.messageTimer),
    fun s => congrArg Host.Outcome.next (respond_ok_eq s s.elemTimer)⟩

/-- Settles O17: the bank fails the test (`exec_tmrInit_invalid`) or passes it (`exec_tmrInit_valid`). -/
theorem timingConfigurationIsLoadedFromTheBank : Obligations.TimingConfigurationIsLoadedFromTheBank := by
  unfold Obligations.TimingConfigurationIsLoadedFromTheBank
  refine ⟨rfl, fun s hbad => ?invalid, fun s hok hdur => ?valid⟩
  case invalid =>
    rw [exec_tmrInit_invalid hbad, respond_eq_resp32, toNat_msgAux, toNat_elemDur]
    rfl
  case valid =>
    have hload : s.elemDur ≠ 0 ∨ s.cfg.zeroElemOk = true := hdur.imp_left (mt (elemDur_eq_zero s).mp)
    rw [exec_tmrInit_valid hok hload, respond_eq_resp32, toNat_msgAux, bankAux_of_bankOk hok, toNat_elemDur,
      elemDur_eq_ofNat, msgDelay_eq_ofNat]
    rfl

/-- Settles O18: the flag answered is the one held before the clear. -/
theorem edgeIsTakenOnce : Obligations.EdgeIsTakenOnce := by
  unfold Obligations.EdgeIsTakenOnce
  refine ⟨rfl, fun s => ?_⟩
  rw [← toNat_flag16]
  exact congrArg Host.Outcome.next (respond_ok_eq _ (flag16 s.edgeFlag))

/-- Settles O19: the step is the tick event (`step_tick`), remembered while masked and delivered otherwise. -/
theorem tickEventIsDeliveredOrRemembered : Obligations.TickEventIsDeliveredOrRemembered := by
  unfold Obligations.TickEventIsDeliveredOrRemembered
  refine ⟨fun s es he hmask hdepth => ⟨.silent, ?remembered⟩, fun s es he hmask => ⟨.silent, ?delivered⟩⟩
  case remembered => rw [step_tick he, tickEvent_remembered (s := { s with events := es }) hmask hdepth]
  case delivered =>
    rw [step_tick he, tickEvent_of_unmasked (s := { s with events := es }) hmask]
    rfl

/-- Settles O20: each counter by `countDown_eq_ofNat`, and the element timer's zero test by `countDown_eq_zero`. -/
theorem deliveredTickCountsDown : Obligations.DeliveredTickCountsDown := by
  unfold Obligations.DeliveredTickCountsDown
  intro s
  simp only [State.doTick, countDown_eq_zero, Bool.if_true_left, Bool.or_comm _ s.edgeFlag]
  simp only [countDown_eq_ofNat]

end
end

section
/-!
The Selection unit: the channel selection and its one level of fallback (spec/42_selection.md rules R181 and R182), the
three SEL operations (rules R185 to R187), the latch and the read of the channel state (rules R190 and R195), and the
CH.CMD that carries a command byte (rule R191).
-/

namespace Sys2Proof

/-! ### The request words that carry an operand -/

theorem decode_selIdx (a : Byte) : decode (BitVec.ofNat 32 (0x30000000 + a.toNat * 2 ^ 16)) = .ok (.selIdx a) :=
  decode_operandA (op := 0x30) rfl (fun _ => by simp [decode, decodeA]) a

theorem decode_chCmd (m : Byte) : decode (BitVec.ofNat 32 (0x34000000 + m.toNat * 2 ^ 16)) = .ok (.chCmd m) :=
  decode_operandA (op := 0x34) rfl (fun _ => by simp [decode, decodeA]) m

end Sys2Proof

namespace Sys2Proof.Machine

/-! ### The selection -/

theorem emptyRecord_eq_decide (s : State) (c : Nat) : s.emptyRecord c = decide (s.chanReg c 5 = 0xFFFFFFFF) := rfl

theorem select_mod (s : State) (i : Nat) : s.select (i % s.cfg.channels) = s.select i := by
  simp only [State.select, Nat.mod_mod]

/-- An empty record sends the selection to channel 0, whose own emptiness is reported and not followed. -/
theorem select_of_empty {s : State} {i : Nat} (h : s.chanReg (i % s.cfg.channels) 5 = 0xFFFFFFFF) :
    s.select i =
      { record := s.chanRecord 0, asked := i % s.cfg.channels, returned := 0, fallback := true
        stillEmpty := s.emptyRecord 0 } := by
  simp only [State.select, State.returnedIndex, emptyRecord_eq_decide, decide_eq_true h, if_true]

theorem select_of_programmed {s : State} {i : Nat} (h : s.chanReg (i % s.cfg.channels) 5 ≠ 0xFFFFFFFF) :
    s.select i =
      { record := s.chanRecord (i % s.cfg.channels), asked := i % s.cfg.channels, returned := i % s.cfg.channels
        fallback := false, stillEmpty := false } := by
  simp only [State.select, State.returnedIndex, emptyRecord_eq_decide, decide_eq_false h, Bool.false_eq_true, if_false]

/-- The channel after the active one: the step wraps at 16. -/
theorem toNat_chActive_succ (s : State) : (s.chActive + 1).toNat = (s.chBase.toNat + s.chDelta.toNat + 1) % 16 := by
  rw [BitVec.toNat_add, toNat_chActive]
  exact Nat.mod_add_mod _ 16 1

/-! ### The channel summary as an answer -/

theorem respond_ok_chrd (s : State) : s.respond .ok 0 s.chrd =
    { s with out := .answered (resp32 0 0 (chrdNat s.chBase s.chDelta s.reloadReq)) none } := by
  rw [respond_ok_eq, toNat_chrd]

theorem respondCommand_eq_resp32 (s : State) (hit rl : Bool) : s.respondCommand hit rl =
    { s with out := .answered (resp32 0 (bit hit + 2 * bit rl) (chrdNat s.chBase s.chDelta s.reloadReq)) none } := by
  rw [State.respondCommand_eq, respond_eq_resp32, toNat_auxBits, toNat_chrd]
  rfl

/-! ### The command byte (rule R191) -/

/-- CH.CMD tells three rows of the command table apart and gives the other six the one answer they share. -/
theorem exec_chCmd_eq_exec_decodeCmd8 (m : Byte) (s : State) : exec (.chCmd m) s = exec (decodeCmd8 m) s := by
  have hlt := (cmdCode m).isLt
  change execChCmd m s = _
  unfold execChCmd decodeCmd8
  generalize (cmdCode m).toNat = code at hlt ⊢
  interval_cases code <;> rfl

/-- The byte is one of the three channel commands. -/
def commandHits (m : Byte) : Bool := decide (m.toNat / 16 = 0xC ∨ m.toNat / 16 = 0xB ∨ m.toNat / 16 = 0x9)

/-- The byte's command forces a reload: the set and the add always, the conditional clear where the delta exceeds its
operand. -/
def commandReloads (m : Byte) (s : State) : Bool :=
  decide (m.toNat / 16 = 0xC ∨ m.toNat / 16 = 0xB ∨ m.toNat / 16 = 0x9 ∧ m.toNat % 16 < s.chDelta.toNat)

/-- `r` is the completion of a command with the two bits given: only the three channel elements and the response
change, `reload_req` by `rl` alone, and the summary answered is the one after the update. -/
def CompletesCommand (s : State) (hit rl : Bool) (r : Result) : Prop :=
  ∃ t : State, r = .next t ∧ t.reloadReq = (s.reloadReq || rl) ∧
    t.out = .answered (resp32 0 (bit hit + 2 * bit rl) (chrdNat t.chBase t.chDelta t.reloadReq)) none ∧
    t = { s with chBase := t.chBase, chDelta := t.chDelta, reloadReq := t.reloadReq, out := t.out }

section
variable (s : State)

theorem respondCommand_completes (base delta : Nibble) (hit rl : Bool) :
    CompletesCommand s hit rl (.next ({ s with
      chBase := base, chDelta := delta, reloadReq := s.reloadReq || rl }.respondCommand hit rl)) := by
  rw [respondCommand_eq_resp32]
  exact ⟨_, rfl, rfl, rfl, rfl⟩

theorem noCommand_completes : CompletesCommand s false false (.next (s.respondCommand false false)) := by
  have h := respondCommand_completes s s.chBase s.chDelta false false
  rwa [Bool.or_false] at h

theorem channelSet_completes (k : Nibble) : CompletesCommand s true true (execChannelSet k s) := by
  have h := respondCommand_completes s k 0 true true
  rwa [Bool.or_true] at h

theorem channelAdd_completes (k : Nibble) : CompletesCommand s true true (execChannelAdd k s) := by
  have h := respondCommand_completes s s.chBase (s.chDelta + k) true true
  rwa [Bool.or_true] at h

theorem channelClearIfGt_completes (k : Nibble) :
    CompletesCommand s true (decide (k.toNat < s.chDelta.toNat)) (execChannelClearIfGt k s) := by
  unfold execChannelClearIfGt
  split_ifs with hgt
  · have h := respondCommand_completes s s.chBase 0 true true
    rw [Bool.or_true] at h
    rwa [decide_eq_true (BitVec.lt_def.mp hgt)]
  · have h := respondCommand_completes s s.chBase s.chDelta true false
    rw [Bool.or_false] at h
    rwa [decide_eq_false (mt BitVec.lt_def.mpr hgt)]

/-- CH.CMD completes whatever its byte. -/
theorem chCmd_completes (m : Byte) : CompletesCommand s (commandHits m) (commandReloads m s) (exec (.chCmd m) s) := by
  simp only [exec, execChCmd, commandHits, commandReloads, ← toNat_cmdCode, ← toNat_cmdOperand]
  split
  next hset => simpa [hset] using channelSet_completes s (cmdOperand m)
  next hadd => simpa [hadd] using channelAdd_completes s (cmdOperand m)
  next hclear => simpa [hclear] using channelClearIfGt_completes s (cmdOperand m)
  next hset hadd hclear =>
    change (cmdCode m).toNat ≠ 0xC at hset
    change (cmdCode m).toNat ≠ 0xB at hadd
    change (cmdCode m).toNat ≠ 0x9 at hclear
    simpa [hset, hadd, hclear] using noCommand_completes s

end

end Sys2Proof.Machine

/-! ### The obligations -/

section
open Sys2Proof Sys2Proof.Machine

/-- Settles O31: the record at the reduced index is empty (`select_of_empty`) or not (`select_of_programmed`). -/
theorem selectFallsBackOneLevel : Obligations.SelectFallsBackOneLevel := by
  unfold Obligations.SelectFallsBackOneLevel
  exact fun s i hN => ⟨Nat.mod_lt i hN, (select_mod s i).symm, select_of_empty, select_of_programmed⟩

/-- Settles O32: the operand is an index of 8 bits (`respondSelection_select`). -/
theorem selectByIndex : Obligations.SelectByIndex := by
  unfold Obligations.SelectByIndex
  exact ⟨decode_selIdx, fun a s => congrArg Host.Outcome.next (respondSelection_select s a.toNat a.isLt s)⟩

/-- Settles O33: SEL.IDX's answer at the active channel's index, over the state with `reload_req` cleared. -/
theorem selectTheActiveChannel : Obligations.SelectTheActiveChannel := by
  unfold Obligations.SelectTheActiveChannel
  refine ⟨rfl, fun s => ?_⟩
  have hlt : s.chActive.toNat < 256 := by have := s.chActive.isLt; omega
  rw [← toNat_chActive]
  exact congrArg Host.Outcome.next (respondSelection_select s s.chActive.toNat hlt { s with reloadReq := false })

/-- Settles O34: SEL.IDX's answer at the index after the active channel's (`toNat_chActive_succ`). -/
theorem selectTheNextChannel : Obligations.SelectTheNextChannel := by
  unfold Obligations.SelectTheNextChannel
  refine ⟨rfl, fun s => ?_⟩
  have hlt : (s.chActive + 1).toNat < 256 := by have := (s.chActive + 1).isLt; omega
  rw [← toNat_chActive_succ]
  exact congrArg Host.Outcome.next (respondSelection_select s (s.chActive + 1).toNat hlt s)

/-- Settles O35: both answer the summary of the state they leave (`respond_ok_chrd`). -/
theorem channelIsLatchedAndRead : Obligations.ChannelIsLatchedAndRead := by
  unfold Obligations.ChannelIsLatchedAndRead
  exact ⟨rfl, rfl,
    fun s => congrArg Host.Outcome.next (respond_ok_chrd { s with chBase := s.chPins, reloadReq := true }),
    fun s => congrArg Host.Outcome.next (respond_ok_chrd s)⟩

/-- Settles O40: CH.CMD agrees with the row of its byte (`exec_chCmd_eq_exec_decodeCmd8`), and each row completes
(`chCmd_completes`). -/
theorem channelCommandCarriesOutItsByte : Obligations.ChannelCommandCarriesOutItsByte := by
  unfold Obligations.ChannelCommandCarriesOutItsByte
  exact ⟨decode_chCmd, fun m s => ⟨exec_chCmd_eq_exec_decodeCmd8 m s, chCmd_completes s m⟩⟩

end
end

section
/-!
The system operations (spec/43_system.md rules R210 to R215): NOP and the words of its `op` that are not NOP, the tick
mask, the error flag and the flag summary.
-/

namespace Sys2Proof

/-! ### The words with `op = 0` (rule R210) -/

theorem decode_of_lt {w : Word} (h : w.toNat < 2 ^ 24) : decode w = decodePlain .nop w := by
  have hop : (reqOp w).toNat = 0x00 := by rw [toNat_reqOp]; omega
  simp only [decode, hop]

/-- Below 2^24 the two operands are all of the word, so any word other than 0 has one that is not zero. -/
theorem decode_rejects_of_lt {w : Word} (h : w.toNat < 2 ^ 24) (hne : w ≠ 0) : ∃ err, decode w = .error err := by
  have hw : w.toNat ≠ 0 := fun h0 => hne (BitVec.eq_of_toNat_eq h0)
  rw [decode_of_lt h, decodePlain_rejects_iff, ne_eq, reqA_eq_zero_iff, ne_eq, reqV_eq_zero_iff]
  omega

end Sys2Proof

namespace Sys2Proof.Machine

/-! ### The flags as an answer -/

theorem respond_ok_flag16 (s : State) (b : Bool) : s.respond .ok 0 (flag16 b) =
    { s with out := .answered (resp32 0 0 (bit b)) none } := by
  rw [respond_ok_eq, toNat_flag16]

theorem respond_ok_stat (s : State) : s.respond .ok 0 s.stat =
    { s with out := .answered (resp32 0 0
      (bit s.edgeFlag + 2 * bit s.errFlag + 4 * bit s.msgValid + 8 * bit s.reloadReq + 16 * bit s.tickMask +
        32 * bit s.tickPending + 64 * bit (decide (s.waitTimer = 0)) + 128 * bit (decide (s.messageTimer = 0)) +
        256 * ((s.chBase.toNat + s.chDelta.toNat) % 16))) none } := by
  rw [respond_ok_eq, toNat_stat]

/-! ### TICK.UNMASK (rule R212) -/

theorem exec_tickUnmask_of_none {s : State} (h : s.tickPending = false) :
    exec .tickUnmask s = .next (State.respond { s with tickMask := false } .ok 0 (flag16 false)) := by
  change execTickUnmask s = _
  simp only [execTickUnmask, h, Bool.false_eq_true, if_false]

theorem exec_tickUnmask_of_pending {s : State} (h : s.tickPending = true) :
    exec .tickUnmask s =
      .next ((State.doTick { s with tickMask := false, tickPending := false }).respond .ok 0 (flag16 true)) := by
  change execTickUnmask s = _
  simp only [execTickUnmask, h, if_true]

end Sys2Proof.Machine

/-! ### The obligations -/

section
open Sys2Proof Sys2Proof.Machine

/-- Settles O1: any other word of NOP's `op` is rejected (`decode_rejects_of_lt`), so its step is the InvalidOp response
(`step_rejected`). -/
theorem nopHasNoEffect : Obligations.NopHasNoEffect := by
  unfold Obligations.NopHasNoEffect
  refine ⟨rfl, fun s => congrArg Host.Outcome.next (respond_ok_eq s 0), fun s w hw hne => ?rejected⟩
  case rejected =>
    obtain ⟨err, herr⟩ := decode_rejects_of_lt hw hne
    rw [step_rejected (State.pushEvent_events s _) herr]
    rfl

/-- Settles O2: the response without error, over the state with the mask set. -/
theorem tickMaskSetsTheMask : Obligations.TickMaskSetsTheMask := by
  unfold Obligations.TickMaskSetsTheMask
  exact ⟨rfl, fun s => congrArg Host.Outcome.next (respond_ok_eq { s with tickMask := true } 0)⟩

/-- Settles O3: the tick pending before the step is what is answered (`exec_tickUnmask_of_none`,
`exec_tickUnmask_of_pending`). -/
theorem tickUnmaskDeliversThePendingTick : Obligations.TickUnmaskDeliversThePendingTick := by
  unfold Obligations.TickUnmaskDeliversThePendingTick
  refine ⟨rfl, fun s hnone => ?none, fun s hpending => ?pending⟩
  case none =>
    rw [exec_tickUnmask_of_none hnone, respond_ok_flag16]
    rfl
  case pending =>
    rw [exec_tickUnmask_of_pending hpending, respond_ok_flag16]
    rfl

/-- Settles O4: both answer the flag held before the step (`respond_ok_flag16`), ERR.CLR from the state with it
cleared. -/
theorem errorFlagIsReadAndCleared : Obligations.ErrorFlagIsReadAndCleared := by
  unfold Obligations.ErrorFlagIsReadAndCleared
  exact ⟨rfl, rfl, fun s => congrArg Host.Outcome.next (respond_ok_flag16 s s.errFlag),
    fun s => congrArg Host.Outcome.next (respond_ok_flag16 { s with errFlag := false } s.errFlag)⟩

/-- Settles O5: the response without error, of the flag summary (`respond_ok_stat`). -/
theorem statusReadShowsTheFlags : Obligations.StatusReadShowsTheFlags := by
  unfold Obligations.StatusReadShowsTheFlags
  exact ⟨rfl, fun s => congrArg Host.Outcome.next (respond_ok_stat s)⟩

end
end

section
/-!
The tick against EDGE.TAKE (spec/60_exceptions.md rule R235): the one place where the order of two agents shows.
-/

namespace Sys2Proof.Machine

/-! ### The steps that meet at the edge flag -/

theorem step_edgeTake {s : State} {es : List Event} (he : s.events = .request 0x28000000 :: es) :
    step s = .next { s with
      events := es, edgeFlag := false, out := .answered (resp32 0 0 (bit s.edgeFlag)) none } := by
  obtain ⟨hdecode, hexec⟩ := edgeIsTakenOnce
  rw [step_request he hdecode, hexec]

theorem doTick_edgeFlag_of_expiring {s : State} (h : s.elemTimer.toNat ≤ 1) : s.doTick.edgeFlag = true := by
  rw [State.doTick_edgeFlag, if_pos ((countDown_eq_zero s.elemTimer).mpr h)]

/-- The tick of an unmasked block on which the element timer reaches zero. -/
theorem step_tick_sets_edgeFlag {s : State} {es : List Event} (he : s.events = .tick :: es)
    (hmask : s.tickMask = false) (htimer : s.elemTimer.toNat ≤ 1) :
    ∃ t, step s = .next t ∧ t.edgeFlag = true ∧ t.events = es := by
  refine ⟨_, step_tick he, ?_, ?_⟩ <;> rw [tickEvent_of_unmasked (s := { s with events := es }) hmask]
  · exact doTick_edgeFlag_of_expiring (s := { s with events := es }) htimer
  · exact State.doTick_events { s with events := es }

/-! ### Runs -/

/-- A flag that is set is seen by the first EDGE.TAKE and not by the second. -/
theorem runSteps_two_edgeTakes {s : State} {es : List Event} (hflag : s.edgeFlag = true)
    (he : s.events = .request 0x28000000 :: .request 0x28000000 :: es) :
    ∃ t u, runSteps 1 s = .next t ∧ t.out = .answered 0x00000001 none ∧
      runSteps 2 s = .next u ∧ u.out = .answered 0x00000000 none := by
  have hfirst := step_edgeTake he
  rw [hflag] at hfirst
  exact ⟨_, _, runSteps_succ 0 hfirst, rfl, (runSteps_succ 1 hfirst).trans (runSteps_succ 0 (step_edgeTake rfl)), rfl⟩

/-- The edge a tick makes is seen once by the EDGE.TAKEs after it, whatever the flag was before the tick. -/
theorem runSteps_tick_then_edgeTakes {s : State} {es : List Event} (hmask : s.tickMask = false)
    (htimer : s.elemTimer.toNat ≤ 1)
    (he : s.events = .tick :: .request 0x28000000 :: .request 0x28000000 :: es) :
    ∃ t u, runSteps 2 s = .next t ∧ t.out = .answered 0x00000001 none ∧
      runSteps 3 s = .next u ∧ u.out = .answered 0x00000000 none := by
  obtain ⟨r, htick, hflag, hr⟩ := step_tick_sets_edgeFlag he hmask htimer
  rw [runSteps_succ 1 htick, runSteps_succ 2 htick]
  exact runSteps_two_edgeTakes hflag hr

end Sys2Proof.Machine

/-! ### The obligations -/

section
open Sys2Proof Sys2Proof.Machine

/-- Settles O24: with EDGE.TAKE first, it answers the cleared flag and leaves a state from which the run is the one with
the tick first (`runSteps_tick_then_edgeTakes`). -/
theorem edgeIsSeenOnceInEitherOrder : Obligations.EdgeIsSeenOnceInEitherOrder := by
  unfold Obligations.EdgeIsSeenOnceInEitherOrder
  refine fun s hmask htimer hflag => ⟨fun he => runSteps_tick_then_edgeTakes hmask htimer he, fun he => ?take_first⟩
  case take_first =>
    have htake := step_edgeTake he
    rw [hflag] at htake
    rw [runSteps_succ 2 htake, runSteps_succ 3 htake]
    obtain ⟨u, v, hrest⟩ := runSteps_tick_then_edgeTakes (s := { s with
      events := [.tick, .request 0x28000000, .request 0x28000000], edgeFlag := false
      out := .answered (resp32 0 0 (bit false)) none }) hmask htimer rfl
    exact ⟨_, u, v, runSteps_succ 0 htake, rfl, hrest⟩

end
end

section
/-!
The reset event (spec/70_reset_and_hazards.md rule R260), from any state, and the two summaries read after it.
-/

namespace Sys2Proof.Machine

/-! ### The reset and what it leaves -/

theorem step_reset {s : State} {es : List Event} (he : s.events = .reset :: es) :
    step s = .next (State.resetBlock { s with events := es }) := by
  simp only [step, runNext, he, runEvent]

/-- Nothing of the state before the reset is left in the block. -/
theorem resetBlock_sameBlock_reset (s : State) : SameBlock State.reset s.resetBlock := by
  simp [SameBlock, State.reset]

/-! ### The summaries of a block at its reset values -/

theorem step_statRd_at_reset {s : State} {es : List Event} (hs : SameBlock State.reset s)
    (he : s.events = .request 0x05000000 :: es) :
    step s = .next { s with events := es, out := .answered 0x000000D8 none } := by
  obtain ⟨hdecode, hexec⟩ := statusReadShowsTheFlags
  obtain ⟨-, herr, hvalid, hwait, hmessage, -, -, -, hedge, hmask, hpending, hbase, hdelta, hreload⟩ := hs
  rw [step_request he hdecode, hexec]
  simp only [herr, hvalid, hwait, hmessage, hedge, hmask, hpending, hbase, hdelta, hreload]
  rfl

theorem step_chRd_at_reset {s : State} {es : List Event} (hs : SameBlock State.reset s)
    (he : s.events = .request 0x35000000 :: es) :
    step s = .next { s with events := es, out := .answered 0x00001000 none } := by
  obtain ⟨-, hdecode, -, hexec⟩ := channelIsLatchedAndRead
  obtain ⟨-, -, -, -, -, -, -, -, -, -, -, hbase, hdelta, hreload⟩ := hs
  rw [step_request he hdecode, hexec]
  simp only [hbase, hdelta, hreload]
  rfl

end Sys2Proof.Machine

/-! ### The obligations -/

section
open Sys2Proof Sys2Proof.Machine

/-- Settles O47: the step is `resetBlock` (`step_reset`), which leaves every block as `State.reset` has it
(`resetBlock_sameBlock_reset`); STAT.RD answers from that block and leaves it so, and CH.RD answers after it. -/
theorem resetPutsEveryElementAtItsValue : Obligations.ResetPutsEveryElementAtItsValue := by
  unfold Obligations.ResetPutsEveryElementAtItsValue
  refine ⟨fun s es he => ⟨.silent, s.programming, step_reset he⟩, resetBlock_sameBlock_reset State.reset,
    fun s he => ?read⟩
  case read =>
    have hreset := step_reset he
    have hblock := resetBlock_sameBlock_reset { s with events := [.request 0x05000000, .request 0x35000000] }
    have hstat := step_statRd_at_reset hblock rfl
    have hchan := step_chRd_at_reset (s := { State.resetBlock s with
      events := [.request 0x35000000], out := .answered 0x000000D8 none }) hblock rfl
    exact ⟨_, _, (runSteps_succ 1 hreset).trans (runSteps_succ 0 hstat), rfl,
      (runSteps_succ 2 hreset).trans ((runSteps_succ 1 hstat).trans (runSteps_succ 0 hchan)), rfl⟩

end
end

section
/-!
Decoder and encoder are inverse to each other (spec/30_encoding.md rules R91, R95 and R96), and a request is carried
out as the instruction it encodes (rules R90 and R191).
-/

namespace Sys2Proof

/-! ### From the instruction to the word and back -/

theorem decode_reqWord_operandA {op : Byte} {f : Byte → Instr} (hd : ∀ w, reqOp w = op → decode w = decodeA f w)
    (a : Byte) : decode (reqWord op a 0) = .ok (f a) := by
  rw [hd _ (reqOp_reqWord op a 0), decodeA, reqV_reqWord, if_pos rfl, reqA_reqWord]

theorem decode_reqWord_operandV {op : Byte} {f : Half → Instr} (hd : ∀ w, reqOp w = op → decode w = decodeV f w)
    (v : Half) : decode (reqWord op 0 v) = .ok (f v) := by
  rw [hd _ (reqOp_reqWord op 0 v), decodeV, reqA_reqWord, if_pos rfl, reqV_reqWord]

/-- The word that carries a command byte is that byte's CH.CMD. -/
theorem decode_reqWord_chCmd (b : Byte) : decode (reqWord 0x34 b 0) = .ok (.chCmd b) :=
  decode_reqWord_operandA (fun w h => by rw [decode, h]; rfl) b

/-- The row of a command byte is found from its code alone; the operand is passed on. -/
theorem decodeCmd8_cmdByte {code : Nibble} {f : Nibble → Instr}
    (hrow : ∀ b, cmdCode b = code → decodeCmd8 b = f (cmdOperand b)) (k : Nibble) :
    decodeCmd8 (cmdByte code k) = f k := by
  rw [hrow _ (cmdCode_cmdByte code k), cmdOperand_cmdByte]

/-- A code below 8 falls through the rows of rule R96 to the last one. -/
theorem decodeCmd8_of_code_lt {b : Byte} (h : (cmdCode b).toNat < 8) :
    decodeCmd8 b = .unrecognized07 (cmdCode b) (cmdOperand b) := by
  unfold decodeCmd8
  split
  case h_9 => rfl
  all_goals omega

/-! ### From the word to the instruction and back -/

theorem wellFormed_of_not_isCommand {i : Instr} (h : i.isCommand = false) : i.wellFormed = true := by
  cases i
  case unrecognized07 => cases h
  all_goals rfl

/-- A word is its opcode, where that is known by its number, and its two operand fields. -/
theorem reqWord_of_op {w : Word} {op : Byte} (hop : (reqOp w).toNat = op.toNat) :
    reqWord op (reqA w) (reqV w) = w := by
  rw [← BitVec.eq_of_toNat_eq hop, reqWord_fields]

section
variable {w : Word} {i : Instr} {op : Byte}

theorem encode_of_decodePlain {j : Instr} (h : decodePlain j w = .ok i) (hj : encode j = .req32 (reqWord op 0 0))
    (hop : (reqOp w).toNat = op.toNat) : encode i = .req32 w := by
  unfold decodePlain at h
  split_ifs at h with hav
  obtain ⟨ha, hv⟩ := hav
  rw [← Except.ok.inj h, hj, ← reqWord_of_op hop, ha, hv]

theorem encode_of_decodeA {f : Byte → Instr} (h : decodeA f w = .ok i)
    (hf : ∀ a, encode (f a) = .req32 (reqWord op a 0)) (hop : (reqOp w).toNat = op.toNat) : encode i = .req32 w := by
  unfold decodeA at h
  split_ifs at h with hv
  rw [← Except.ok.inj h, hf, ← hv, reqWord_of_op hop]

theorem encode_of_decodeV {f : Half → Instr} (h : decodeV f w = .ok i)
    (hf : ∀ v, encode (f v) = .req32 (reqWord op 0 v)) (hop : (reqOp w).toNat = op.toNat) : encode i = .req32 w := by
  unfold decodeV at h
  split_ifs at h with ha
  rw [← Except.ok.inj h, hf, ← ha, reqWord_of_op hop]

end

/-- What a request word decodes to encodes as that word: the cases `h_n` are the rows of rule R95 in order. -/
theorem encode_of_decode {w : Word} {i : Instr} (h : decode w = .ok i) : encode i = .req32 w := by
  unfold decode at h
  split at h
  case h_30 => cases h
  case h_8 hop | h_24 hop | h_28 hop => exact encode_of_decodeA h (fun _ => rfl) hop
  case h_12 hop | h_13 hop | h_15 hop | h_16 hop | h_17 hop => exact encode_of_decodeV h (fun _ => rfl) hop
  all_goals exact encode_of_decodePlain h rfl ‹_›

theorem cmdByte_of_code {b : Byte} {code : Nibble} (h : (cmdCode b).toNat = code.toNat) :
    cmdByte code (cmdOperand b) = b := by
  rw [← BitVec.eq_of_toNat_eq h, cmdByte_fields]

/-- What a command byte decodes to encodes as that byte: the cases `h_n` are the rows of `decodeCmd8` in order. -/
theorem encode_decodeCmd8 (b : Byte) : encode (decodeCmd8 b) = .cmd8 b := by
  unfold decodeCmd8
  split
  case h_9 => exact congrArg Encoded.cmd8 (cmdByte_fields b)
  all_goals exact congrArg Encoded.cmd8 (cmdByte_of_code ‹_›)

/-- Only the last row of the command table bounds its code, and the other rows leave it no code above 7. -/
theorem wellFormed_decodeCmd8 (b : Byte) : (decodeCmd8 b).wellFormed = true := by
  have hlt := (cmdCode b).isLt
  unfold decodeCmd8
  split
  case h_9 hF hE hD hA hC hB h9 h8 =>
    simp only [imp_false] at hF hE hD hA hC hB h9 h8
    exact decide_eq_true (by omega)
  all_goals rfl

end Sys2Proof

/-! ### The obligations -/

section
open Sys2Proof Sys2Proof.Machine

/-- Settles O43: each row of the opcode table by the kind of its operand, each command by its code. -/
theorem decodeOfEncodeIsTheInstruction : Obligations.DecodeOfEncodeIsTheInstruction := by
  unfold Obligations.DecodeOfEncodeIsTheInstruction
  intro i hwf
  cases i
  case crcByte a | selIdx a | chCmd a => exact decode_reqWord_operandA (fun w h => by rw [decode, h]; rfl) a
  case crcCmpc v | crcCmpm v | tmrLdw v | tmrLdm v | tmrLde v =>
    exact decode_reqWord_operandV (fun w h => by rw [decode, h]; rfl) v
  case channelSet k | channelAdd k | channelClearIfGt k | endOfMessage k | ioIncrement k | ioDecrement k | ioSet k |
      unrecognized8 k =>
    exact congrArg Except.ok (decodeCmd8_cmdByte (fun b h => by rw [decodeCmd8, h]; rfl) k)
  case unrecognized07 code k =>
    have hlt : (cmdCode (cmdByte code k)).toNat < 8 := by simpa [Instr.wellFormed] using hwf
    have hrow := decodeCmd8_of_code_lt hlt
    rw [cmdCode_cmdByte, cmdOperand_cmdByte] at hrow
    exact congrArg Except.ok hrow
  all_goals rfl

/-- Settles O44: a request word by `encode_of_decode`, and no word decodes to a command, the one kind of instruction
that can be ill-formed; a command byte by `encode_decodeCmd8` and `wellFormed_decodeCmd8`. -/
theorem encodeOfDecodeIsTheWord : Obligations.EncodeOfDecodeIsTheWord := by
  unfold Obligations.EncodeOfDecodeIsTheWord
  intro e i h
  cases e with
  | req32 w => exact ⟨wellFormed_of_not_isCommand (isCommand_of_decode h), encode_of_decode h⟩
  | cmd8 b =>
    rw [← Except.ok.inj h]
    exact ⟨wellFormed_decodeCmd8 b, encode_decodeCmd8 b⟩

/-- Settles O41: each word and byte is closed. -/
theorem sampleWordsDecode : Obligations.SampleWordsDecode := by
  unfold Obligations.SampleWordsDecode
  decide

/-- Settles O46: the round trip says what the request word decodes to, the instruction itself or, for a command, the
CH.CMD of its byte, which does the same (`exec_chCmd_eq_exec_decodeCmd8`). -/
theorem stepCarriesOutTheRequest : Obligations.StepCarriesOutTheRequest := by
  unfold Obligations.StepCarriesOutTheRequest
  refine ⟨fun s w es i he hd => step_request he hd, fun s i hwf => ?pushed⟩
  case pushed =>
    have hround := decodeOfEncodeIsTheInstruction i hwf
    unfold requestWord
    cases henc : encode i with
    | req32 w =>
      rw [henc] at hround
      exact step_request (State.pushEvent_events s _) hround
    | cmd8 b =>
      rw [henc] at hround
      have hstep := step_request (State.pushEvent_events s _) (decode_reqWord_chCmd b)
      rw [exec_chCmd_eq_exec_decodeCmd8, Except.ok.inj hround] at hstep
      exact hstep

end
end

section
/-!
The invariant, at the reset and kept by every step (spec/10_state.md section 4), and what each kind of step leaves
alone outside the block (spec/20_memory.md rules R60 and R86).
-/

namespace Sys2Proof.Machine

/-! ### The part of the invariant that speaks of the tick -/

/-- Rule R212, and U11 of spec/93_implementation_defined.md: where a tick can be pending. -/
def PendingInv (s : State) : Prop :=
  (s.tickMask = false → s.tickPending = false) ∧ (s.cfg.maskPendingDepth = 0 → s.tickPending = false)

/-- Rule R30: the element timer between its bounds. -/
def ElemInv (timer reload : Half) : Prop := timer ≤ reload ∧ (reload ≠ 0 → timer ≠ 0)

theorem elemInv_loaded (v : Half) : ElemInv v v := ⟨BitVec.le_refl v, id⟩

/-- A tick either reloads the element timer or leaves it above 0. -/
theorem doTick_elemInv {s : State} (h : ElemInv s.elemTimer s.elemReload) :
    ElemInv s.doTick.elemTimer s.doTick.elemReload := by
  rw [State.doTick_elemTimer, State.doTick_elemReload]
  split_ifs with hzero
  · exact elemInv_loaded _
  · refine ⟨?_, fun _ => hzero⟩
    have hle := BitVec.le_def.mp h.1
    rw [BitVec.le_def, toNat_countDown]
    omega

theorem pendingInv_of_none {s : State} (h : s.tickPending = false) : PendingInv s := ⟨fun _ => h, fun _ => h⟩

/-! ### Instructions -/

theorem tickUnmask_pendingInv {s t : State} (h : exec .tickUnmask s = .next t) : PendingInv t := by
  cases hp : s.tickPending with
  | false =>
    rw [exec_tickUnmask_of_none hp] at h
    injection h with h; subst h
    exact pendingInv_of_none hp
  | true =>
    rw [exec_tickUnmask_of_pending hp] at h
    injection h with h; subst h
    exact pendingInv_of_none rfl

theorem tickUnmask_elemInv {s t : State} (hs : ElemInv s.elemTimer s.elemReload) (h : exec .tickUnmask s = .next t) :
    ElemInv t.elemTimer t.elemReload := by
  cases hp : s.tickPending with
  | false =>
    rw [exec_tickUnmask_of_none hp] at h
    injection h with h; subst h
    exact hs
  | true =>
    rw [exec_tickUnmask_of_pending hp] at h
    injection h with h; subst h
    exact doTick_elemInv (s := { s with tickMask := false, tickPending := false }) hs

theorem tmrLde_elemInv {v : Half} {s t : State} (h : exec (.tmrLde v) s = .next t) :
    ElemInv t.elemTimer t.elemReload := by
  simp only [exec, execTmrLde] at h
  split_ifs at h
  injection h with h; subst h
  exact elemInv_loaded v

theorem tmrInit_elemInv {s t : State} (hs : ElemInv s.elemTimer s.elemReload) (h : exec .tmrInit s = .next t) :
    ElemInv t.elemTimer t.elemReload := by
  simp only [exec, execTmrInit] at h
  split_ifs at h
  · injection h with h; subst h; exact hs
  · injection h with h; subst h; exact elemInv_loaded s.elemDur

/-- TICK.MASK and TICK.UNMASK are the writers of the two elements, and a set mask asks for nothing. -/
theorem exec_keeps_pendingInv {i : Instr} {s t : State} (hs : PendingInv s) (h : exec i s = .next t) :
    PendingInv t := by
  obtain ⟨hcfg, -⟩ := exec_outside h
  by_cases hu : i = .tickUnmask
  · subst hu; exact tickUnmask_pendingInv h
  by_cases hm : i = .tickMask
  · subst hm
    injection h with h; subst h
    exact ⟨fun hmask => Bool.noConfusion hmask, hs.2⟩
  · have hmask : t.tickMask = s.tickMask := exec_sameBut_writes h .tickMask fun hw => (writers_tickMask hw).elim hm hu
    have hpend : t.tickPending = s.tickPending :=
      exec_sameBut_writes h .tickPending fun hw => hu (writers_tickPending hw)
    rwa [PendingInv, hmask, hpend, hcfg]

/-- TMR.LDE, TMR.INIT and TICK.UNMASK are the writers of the two elements. -/
theorem exec_keeps_elemInv {i : Instr} {s t : State} (hs : ElemInv s.elemTimer s.elemReload)
    (h : exec i s = .next t) : ElemInv t.elemTimer t.elemReload := by
  by_cases hw : .elemTimer ∈ i.writes
  · rcases writers_elemTimer hw with ⟨v, rfl⟩ | rfl | rfl
    · exact tmrLde_elemInv h
    · exact tmrInit_elemInv hs h
    · exact tickUnmask_elemInv hs h
  · have hreload : .elemReload ∉ i.writes := by
      intro hr
      rcases writers_elemReload hr with ⟨v, rfl⟩ | rfl <;> simp at hw
    have htimer : t.elemTimer = s.elemTimer := exec_sameBut_writes h .elemTimer hw
    have hreload : t.elemReload = s.elemReload := exec_sameBut_writes h .elemReload hreload
    rwa [htimer, hreload]

theorem exec_keeps_inv {i : Instr} {s t : State} (hs : s.Inv) (h : exec i s = .next t) : t.Inv := by
  obtain ⟨hcfg, hstore, -, hprog, -⟩ := exec_outside h
  have hp := exec_keeps_pendingInv ⟨hs.pendingOnlyMasked, hs.pendingDepth⟩ h
  have he := exec_keeps_elemInv ⟨hs.elemAtMost, hs.elemNotZero⟩ h
  exact {
    cfgValid := hcfg ▸ hs.cfgValid
    storeWf := hstore ▸ hs.storeWf
    storeInRange := by rw [hcfg, hstore]; exact hs.storeInRange
    pendingOnlyMasked := hp.1
    pendingDepth := hp.2
    elemAtMost := he.1
    elemNotZero := he.2
    programInRecord := by rw [hcfg, hprog]; exact hs.programInRecord }

/-! ### The other agents -/

theorem tickEvent_keeps_inv {s : State} (hs : s.Inv) : s.tickEvent.Inv := by
  cases hmask : s.tickMask with
  | false =>
    rw [tickEvent_of_unmasked hmask]
    have he := doTick_elemInv ⟨hs.elemAtMost, hs.elemNotZero⟩
    exact { hs with elemAtMost := he.1, elemNotZero := he.2 }
  | true =>
    rw [tickEvent_of_masked hmask]
    refine { hs with
      pendingOnlyMasked := fun h => absurd (hmask.symm.trans h) (by decide)
      pendingDepth := fun h => ?_ }
    have hdepth : s.cfg.maskPendingDepth = 0 := h
    simp [hs.pendingDepth hdepth, hdepth]

theorem resetBlock_keeps_inv {s : State} (hs : s.Inv) : s.resetBlock.Inv :=
  { hs with
    pendingOnlyMasked := fun _ => rfl
    pendingDepth := fun _ => rfl
    elemAtMost := BitVec.le_refl 0
    elemNotZero := id }

/-- The regions lie below the end of the address space (the last of the constraints of rule R6). -/
theorem StoreChange.inRange {s : State} {m : Memory} (h : StoreChange s m) (hv : s.cfg.Valid)
    (hs : ∀ c ∈ s.store, c.1 < 2 ^ s.cfg.addrBits) : ∀ c ∈ m, c.1 < 2 ^ s.cfg.addrBits := by
  obtain ⟨-, -, -, -, htop⟩ := hv
  intro cell hcell
  cases h with
  | same => exact hs cell hcell
  | chByte c k b hc hk =>
    rcases Memory.mem_write hcell with ⟨rfl, -⟩ | hold
    · simp only [Config.chByteAddr]; omega
    · exact hs cell hold
  | msgByte k b hk =>
    rcases Memory.mem_write hcell with ⟨rfl, -⟩ | hold
    · simp only [Config.msgUsable] at hk
      simp only [Config.msgByteAddr, Config.msgBase, Config.chRegionSize]; omega
    · exact hs cell hold
  | eraseChannels => exact hs cell (List.mem_of_mem_filter hcell)
  | eraseMessage => exact hs cell (List.mem_of_mem_filter hcell)

theorem runEnv_keeps_inv {act : EnvAction} {s t : State} (hs : s.Inv) (h : runEnv act s = .next t) : t.Inv := by
  obtain ⟨hchange, hprog, ht⟩ := runEnv_next hs.programInRecord h
  rw [ht]
  exact { hs with
    storeWf := hchange.wf hs.storeWf
    storeInRange := hchange.inRange hs.cfgValid hs.storeInRange
    programInRecord := hprog }

/-- The invariant says nothing of the events to come and of the output. -/
theorem inv_with_events_out {s : State} (hs : s.Inv) (es : List Event) (o : Output) : { s with events := es, out := o }.Inv :=
  { hs with }

/-! ### What a step leaves alone outside the block -/

theorem tickEvent_outside (s : State) :
    s.tickEvent.cfg = s.cfg ∧ s.tickEvent.store = s.store ∧ s.tickEvent.chPins = s.chPins ∧
      s.tickEvent.programming = s.programming := by
  unfold State.tickEvent
  split_ifs <;> exact ⟨rfl, rfl, rfl, rfl⟩

theorem writeStoreByte_cfg {addr : Nat} {b : Byte} {s t : State} (h : writeStoreByte addr b s = .next t) :
    t.cfg = s.cfg := by
  obtain ⟨-, rfl⟩ := writeStoreByte_next h
  rfl

/-- No environment action changes the parameters, whatever programming is under way. -/
theorem runEnv_cfg {act : EnvAction} {s t : State} (h : runEnv act s = .next t) : t.cfg = s.cfg := by
  cases act with
  | programChannel c bytes =>
    simp only [runEnv, programChannel] at h
    obtain ⟨-, h⟩ := storeAction_next h
    split_ifs at h <;> injection h with h <;> subst h <;> rfl
  | programStep =>
    simp only [runEnv, programStep] at h
    split at h
    · injection h with h; subst h; rfl
    · split at h
      · injection h with h; subst h; rfl
      · obtain ⟨-, h⟩ := storeAction_next h
        have hcfg := writeStoreByte_cfg h
        exact hcfg
  | writeChByte c k b =>
    simp only [runEnv, writeChByte] at h
    obtain ⟨-, h⟩ := storeAction_next h
    split_ifs at h
    · injection h with h; subst h; rfl
    · exact writeStoreByte_cfg h
  | eraseChannels =>
    simp only [runEnv, eraseChannels] at h
    obtain ⟨-, h⟩ := storeAction_next h
    injection h with h; subst h; rfl
  | eraseMessage =>
    simp only [runEnv, eraseMessage] at h
    obtain ⟨-, h⟩ := storeAction_next h
    injection h with h; subst h; rfl
  | writeMsgByte k b =>
    simp only [runEnv, writeMsgByte] at h
    obtain ⟨-, h⟩ := storeAction_next h
    split_ifs at h
    · injection h with h; subst h; rfl
    · exact writeStoreByte_cfg h
  | setPins p => injection h with h; subst h; rfl

end Sys2Proof.Machine

/-! ### The obligations -/

section
open Sys2Proof Sys2Proof.Machine

/-- Settles O48: the reset state is closed. -/
theorem invariantHoldsAtReset : Obligations.InvariantHoldsAtReset := by
  unfold Obligations.InvariantHoldsAtReset
  exact {
    cfgValid := by decide
    storeWf := Memory.wf_nil
    storeInRange := fun c hc => absurd hc List.not_mem_nil
    pendingOnlyMasked := fun _ => rfl
    pendingDepth := fun _ => rfl
    elemAtMost := BitVec.le_refl 0
    elemNotZero := id
    programInRecord := fun p hp => absurd hp (Option.some_ne_none p).symm }

/-- Settles O49: each kind of step (`step_next`) keeps the invariant, and taking its event off the list does not touch
it. -/
theorem everyStepKeepsTheInvariant : Obligations.EveryStepKeepsTheInvariant := by
  unfold Obligations.EveryStepKeepsTheInvariant
  intro s t hs h
  have htaken (es : List Event) : { s with events := es }.Inv := inv_with_events_out hs es s.out
  rcases step_next h with ⟨-, rfl⟩ | ⟨w, es, i, -, -, hx⟩ | ⟨w, es, err, -, -, rfl⟩ | ⟨es, -, rfl⟩ | ⟨es, -, rfl⟩ |
      ⟨act, es, -, hx⟩
  · exact hs
  · exact exec_keeps_inv (htaken es) hx
  · exact inv_with_events_out hs es _
  · exact inv_with_events_out (tickEvent_keeps_inv (htaken es)) _ .silent
  · exact resetBlock_keeps_inv (htaken es)
  · exact runEnv_keeps_inv (htaken es) hx

/-- Settles O50: of the kinds of step (`step_next`) only the environment's goes outside the block, and it leaves the
block (`runEnv_sameBlock`) and the parameters (`runEnv_cfg`) alone. -/
theorem onlyTheEnvironmentWritesTheStore : Obligations.OnlyTheEnvironmentWritesTheStore := by
  unfold Obligations.OnlyTheEnvironmentWritesTheStore
  intro s t h
  have hother (e : Event) (es : List Event) (he : s.events = e :: es) (hne : ∀ act, e ≠ .env act) :
      ¬ ∃ act, s.nextIs (.env act) := by
    rintro ⟨act, hact⟩
    obtain ⟨es', he'⟩ := nextIs_iff.mp hact
    rw [he] at he'
    exact hne act (List.cons.inj he').1
  rcases step_next h with ⟨-, rfl⟩ | ⟨w, es, i, he, -, hx⟩ | ⟨w, es, err, he, -, rfl⟩ | ⟨es, he, rfl⟩ |
      ⟨es, he, rfl⟩ | ⟨act, es, he, hx⟩
  · exact ⟨rfl, fun _ => ⟨rfl, rfl, rfl⟩, fun _ => sameBlock_iff.mpr fun e _ => by cases e <;> rfl⟩
  · obtain ⟨hcfg, hstore, hpins, hprog, -⟩ := exec_outside hx
    exact ⟨hcfg, fun _ => ⟨hstore, hpins, hprog⟩, fun henv => absurd henv (hother _ es he (by simp))⟩
  · exact ⟨rfl, fun _ => ⟨rfl, rfl, rfl⟩, fun henv => absurd henv (hother _ es he (by simp))⟩
  · obtain ⟨hcfg, hstore, hpins, hprog⟩ := tickEvent_outside { s with events := es }
    exact ⟨hcfg, fun _ => ⟨hstore, hpins, hprog⟩, fun henv => absurd henv (hother _ es he (by simp))⟩
  · exact ⟨rfl, fun _ => ⟨rfl, rfl, rfl⟩, fun henv => absurd henv (hother _ es he (by simp))⟩
  · have hcfg := runEnv_cfg hx
    have hblock := runEnv_sameBlock hx
    exact ⟨hcfg, fun hnone => absurd (nextIs_iff.mpr ⟨es, he⟩) (hnone act), fun _ => hblock⟩

end
end

section
/-!
The environment's byte writes (spec/20_memory.md rules R80, R83 and R84), what is rejected and refused, and a channel
programmed byte by byte.
-/

namespace Sys2Proof.Machine

/-! ### The mask -/

theorem storeAction_unmasked {s : State} (h : s.tickMask = false) (act : State → Result) :
    storeAction s act = .refused .storeActionUnmasked := by
  rw [storeAction, h]
  rfl

theorem programStep_unmasked {s : State} {p : ProgramRun} (h : s.tickMask = false) (hp : s.programming = some p)
    (hrest : p.rest ≠ []) : runEnv .programStep s = .refused .storeActionUnmasked := by
  obtain ⟨b, bs, hbs⟩ := List.exists_cons_of_ne_nil hrest
  simp only [runEnv, programStep, hp, hbs]
  refine storeAction_unmasked ?_ _
  exact h

/-! ### One byte write -/

/-- The byte at the address can be written: it is erased, or STORE_OVERWRITE is set. -/
def Writable (s : State) (addr : Nat) : Prop := s.store.read addr = erasedByte ∨ s.cfg.storeOverwrite = true

theorem writeStoreByte_writable {s : State} {addr : Nat} (h : Writable s addr) (b : Byte) :
    writeStoreByte addr b s = .next { s with store := s.store.write addr b, out := .reported .done } := if_pos h

theorem writeStoreByte_refused {s : State} {addr : Nat} (h : ¬ Writable s addr) (b : Byte) :
    writeStoreByte addr b s = .refused (.byteNotErased addr) := if_neg h

/-- A step that is one byte write: what it does where the byte can be written, and where not. -/
theorem byteWrite_outcomes {s t : State} {addr : Nat} {b : Byte} (hstep : step s = writeStoreByte addr b t)
    (hwf : t.store.wf) :
    (Writable t addr → ∃ u : State, step s = .next u ∧
      (∀ a : Nat, u.store.read a = if a = addr then b else t.store.read a) ∧
      u = { t with store := u.store, out := u.out }) ∧
    (t.store.read addr ≠ erasedByte → t.cfg.storeOverwrite = false → step s = .refused (.byteNotErased addr)) := by
  refine ⟨fun hfree => ⟨_, hstep.trans (writeStoreByte_writable hfree b), Memory.read_write hwf addr b, rfl⟩,
    fun hbyte hover => hstep.trans (writeStoreByte_refused ?_ b)⟩
  rintro (herased | hset)
  · exact hbyte herased
  · exact absurd (hover.symm.trans hset) Bool.false_ne_true

/-! ### The steps that write or reject -/

section
variable {s : State} {es : List Event} (hmask : s.tickMask = true)
include hmask

/-- Taking an event off the list leaves the mask. -/
theorem storeAction_masked_taken (act : State → Result) :
    storeAction { s with events := es } act = act { s with events := es } := if_pos hmask

theorem step_writeMsgByte {k : Half} {b : Byte} (he : s.events = .env (.writeMsgByte k b) :: es)
    (hk : k.toNat < s.cfg.msgUsable) :
    step s = writeStoreByte (s.cfg.msgByteAddr k.toNat) b { s with events := es } := by
  rw [step_env he, runEnv, writeMsgByte, storeAction_masked_taken hmask, if_neg (Nat.not_le_of_lt hk)]

theorem step_writeMsgByte_rejected {k : Half} {b : Byte} (he : s.events = .env (.writeMsgByte k b) :: es)
    (hk : s.cfg.msgUsable ≤ k.toNat) : step s = .next (State.report { s with events := es } .rejectedIndex) := by
  rw [step_env he, runEnv, writeMsgByte, storeAction_masked_taken hmask, if_pos hk]

theorem step_writeChByte {c : Nat} {k : Fin 24} {b : Byte} (he : s.events = .env (.writeChByte c k b) :: es)
    (hc : c < s.cfg.channels) : step s = writeStoreByte (s.cfg.chByteAddr c k) b { s with events := es } := by
  rw [step_env he, runEnv, writeChByte, storeAction_masked_taken hmask, if_neg (Nat.not_le_of_lt hc)]

theorem step_writeChByte_rejected {c : Nat} {k : Fin 24} {b : Byte} (he : s.events = .env (.writeChByte c k b) :: es)
    (hc : s.cfg.channels ≤ c) : step s = .next (State.report { s with events := es } .rejectedIndex) := by
  rw [step_env he, runEnv, writeChByte, storeAction_masked_taken hmask, if_pos hc]

section
variable {c : Nat} {bytes : List Byte} (he : s.events = .env (.programChannel c bytes) :: es)
include he

theorem step_programChannel (hc : c < s.cfg.channels) (hlen : bytes.length = 24) :
    step s = .next { s with
      programming := some { channel := c, offset := 0, rest := bytes }, events := es, out := .reported .done } := by
  rw [step_env he, runEnv, programChannel, storeAction_masked_taken hmask, if_neg (Nat.not_le_of_lt hc),
    if_neg (not_not.mpr hlen)]
  rfl

theorem step_programChannel_no_channel (hc : s.cfg.channels ≤ c) :
    step s = .next (State.report { s with events := es } (.rejected .invalidChannelIndex)) := by
  rw [step_env he, runEnv, programChannel, storeAction_masked_taken hmask, if_pos hc]

theorem step_programChannel_truncated (hc : c < s.cfg.channels) (hlen : bytes.length ≠ 24) :
    step s = .next (State.report { s with events := es } (.rejected .storeWriteTruncated)) := by
  rw [step_env he, runEnv, programChannel, storeAction_masked_taken hmask, if_neg (Nat.not_le_of_lt hc), if_pos hlen]

end

section
variable {c k : Nat} {b : Byte} {bs : List Byte} (he : s.events = .env .programStep :: es)
  (hp : s.programming = some { channel := c, offset := k, rest := b :: bs })
include he hp

theorem step_programStep : step s = writeStoreByte (s.cfg.chByteAddr c k) b { s with
    programming := if bs = [] then none else some { channel := c, offset := k + 1, rest := bs }
    events := es } := by
  rw [step_env he]
  simp only [runEnv, programStep, hp]
  refine storeAction_masked ?_ _
  exact hmask

theorem step_programStep_writable (hfree : Writable s (s.cfg.chByteAddr c k)) : step s = .next { s with
    store := s.store.write (s.cfg.chByteAddr c k) b
    programming := if bs = [] then none else some { channel := c, offset := k + 1, rest := bs }
    events := es
    out := .reported .done } := by
  rw [step_programStep hmask he hp]
  refine writeStoreByte_writable ?_ b
  exact hfree

end

end

/-! ### Several byte writes -/

/-- The bytes written one after the other from `addr` up. -/
def Memory.writeBytes (m : Memory) (addr : Nat) : List Byte → Memory
  | [] => m
  | b :: bs => Memory.writeBytes (m.write addr b) (addr + 1) bs

theorem Memory.read_writeBytes_outside {m : Memory} (hm : m.wf) {addr x : Nat} {bs : List Byte}
    (hx : x < addr ∨ addr + bs.length ≤ x) : (m.writeBytes addr bs).read x = m.read x := by
  induction bs generalizing m addr with
  | nil => rfl
  | cons b bs ih =>
    rw [List.length_cons] at hx
    rw [Memory.writeBytes, ih (Memory.write_wf hm addr b) (by omega), Memory.read_write hm, if_neg (by omega)]

theorem Memory.read_writeBytes_inside {m : Memory} (hm : m.wf) {addr k : Nat} {bs : List Byte} (hk : k < bs.length) :
    bs[k]? = some ((m.writeBytes addr bs).read (addr + k)) := by
  induction bs generalizing m addr k with
  | nil => exact absurd hk (Nat.not_lt_zero k)
  | cons b bs ih =>
    have hwf := Memory.write_wf hm addr b
    rw [Memory.writeBytes]
    cases k with
    | zero => rw [Memory.read_writeBytes_outside hwf (by omega), Memory.read_write hm, if_pos (by omega)]; rfl
    | succ k =>
      rw [List.getElem?_cons_succ, ih hwf (Nat.lt_of_succ_lt_succ hk) (addr := addr + 1), Nat.add_right_comm]
      rfl

/-- The byte writes of a programming under way, onto erased bytes, one step each. -/
theorem runSteps_programSteps {s : State} {c k : Nat} {bytes : List Byte} {es : List Event} (hmask : s.tickMask = true)
    (hwf : s.store.wf) (hne : bytes ≠ []) (herased : ∀ j, j < bytes.length → s.chanByte c (k + j) = erasedByte)
    (hp : s.programming = some { channel := c, offset := k, rest := bytes })
    (he : s.events = List.replicate bytes.length (.env .programStep) ++ es) :
    runSteps bytes.length s = .next { s with
      store := s.store.writeBytes (s.cfg.chByteAddr c k) bytes
      programming := none
      events := es
      out := .reported .done } := by
  induction bytes generalizing s k with
  | nil => exact absurd rfl hne
  | cons b bs ih =>
    have hfree : Writable s (s.cfg.chByteAddr c k) := .inl (herased 0 (Nat.succ_pos _))
    rw [List.length_cons, runSteps_succ _ (step_programStep_writable hmask he hp hfree)]
    by_cases hbs : bs = []
    · subst hbs
      rfl
    · have hrest (j : Nat) (hj : j < bs.length) :
          (s.store.write (s.cfg.chByteAddr c k) b).read (s.cfg.chByteAddr c (k + 1 + j)) = erasedByte := by
        rw [Memory.read_write hwf, if_neg (by simp only [Config.chByteAddr]; omega), Nat.add_assoc, Nat.add_comm 1 j]
        exact herased (j + 1) (Nat.succ_lt_succ hj)
      exact ih (s := { s with
        store := s.store.write (s.cfg.chByteAddr c k) b
        programming := if bs = [] then none else some { channel := c, offset := k + 1, rest := bs }
        events := List.replicate bs.length (.env .programStep) ++ es
        out := .reported .done }) hmask (Memory.write_wf hwf _ _) hbs hrest (if_neg hbs) rfl

/-- A register of a record whose bytes are known. -/
theorem chanReg_of_bytes {t : State} {c r : Nat} {bytes : List Byte} {b0 b1 b2 b3 : Byte}
    (hbytes : ∀ k, k < 24 → bytes[k]? = some (t.chanByte c k)) (hr : r < 6) (h0 : bytes[4 * r]? = some b0)
    (h1 : bytes[4 * r + 1]? = some b1) (h2 : bytes[4 * r + 2]? = some b2) (h3 : bytes[4 * r + 3]? = some b3) :
    t.chanReg c r = regOfBytes t.cfg.regByteOrder b0 b1 b2 b3 := by
  have hbyte {k : Nat} {b : Byte} (hk : k < 24) (h : bytes[k]? = some b) : t.chanByte c k = b :=
    Option.some.inj ((hbytes k hk).symm.trans h)
  rw [State.chanReg, hbyte (by omega) h0, hbyte (by omega) h1, hbyte (by omega) h2, hbyte (by omega) h3]

end Sys2Proof.Machine

/-! ### The obligations -/

section
open Sys2Proof Sys2Proof.Machine

/-- Settles O60: every store action tests the mask before anything else (`storeAction_unmasked`). -/
theorem storeActionsNeedTheMask : Obligations.StoreActionsNeedTheMask := by
  unfold Obligations.StoreActionsNeedTheMask
  refine ⟨fun s es act hmask he hact => ?refused, fun s es p he => ⟨.reported .done, step_env he⟩⟩
  case refused =>
    rw [step_env he]
    rcases hact with ⟨c, bytes, rfl⟩ | ⟨c, k, b, rfl⟩ | rfl | rfl | ⟨k, b, rfl⟩ | ⟨rfl, p, hp, hrest⟩
    case inr.inr.inr.inr.inr => exact programStep_unmasked (s := { s with events := es }) hmask hp hrest
    all_goals exact if_neg (ne_true_of_eq_false hmask)

/-- Settles O57: the four rejections, each a report over the state without its event. -/
theorem rejectedStoreActionsWriteNothing : Obligations.RejectedStoreActionsWriteNothing := by
  unfold Obligations.RejectedStoreActionsWriteNothing
  exact ⟨fun _ _ _ _ hmask he hc => step_programChannel_no_channel hmask he hc,
    fun _ _ _ _ hmask he hc hlen => step_programChannel_truncated hmask he hc hlen,
    fun _ _ _ _ _ hmask he hc => step_writeChByte_rejected hmask he hc,
    fun _ _ _ _ hmask he hk => step_writeMsgByte_rejected hmask he hk⟩

/-- Settles O58: each of the three is one `writeStoreByte` (`byteWrite_outcomes`), but for a message index past the
usable part. -/
theorem storeByteIsWrittenWhereErased : Obligations.StoreByteIsWrittenWhereErased := by
  unfold Obligations.StoreByteIsWrittenWhereErased
  refine ⟨fun s es k b hmask hwf he => ?msg, fun s es c k b hmask hwf he hc => ?ch,
    fun s es c k b bs hmask hwf he hp => ?program⟩
  case msg =>
    have hwrite (hk : k.toNat < s.cfg.msgUsable) := byteWrite_outcomes (step_writeMsgByte hmask he hk) hwf
    exact ⟨fun hk => (hwrite hk).1, fun hk => (hwrite hk).2, fun hk => ⟨_, step_writeMsgByte_rejected hmask he hk⟩⟩
  case ch => exact byteWrite_outcomes (step_writeChByte hmask he hc) hwf
  case program => exact byteWrite_outcomes (step_programStep hmask he hp) hwf

/-- Settles O56: the start, then the byte writes as one `Memory.writeBytes` (`runSteps_programSteps`), read back by
`Memory.read_writeBytes_inside` and `Memory.read_writeBytes_outside`. -/
theorem programmedChannelReadsBack : Obligations.ProgrammedChannelReadsBack := by
  unfold Obligations.ProgrammedChannelReadsBack
  intro s c bytes es hmask hwf hc hlen herased he
  have hstart := step_programChannel hmask he hc hlen
  have hwrites := runSteps_programSteps (s := { s with
    programming := some { channel := c, offset := 0, rest := bytes }
    events := List.replicate 24 (.env .programStep) ++ es
    out := .reported .done }) (c := c) (k := 0) (bytes := bytes) (es := es) hmask hwf
    (List.ne_nil_of_length_pos (by omega))
    (fun j hj => by rw [Nat.zero_add]; exact herased j (by omega)) rfl (by rw [hlen])
  have hrun := (runSteps_succ 24 hstart).trans (hlen ▸ hwrites)
  have hback (k : Nat) (hk : k < 24) :
      bytes[k]? = some ((s.store.writeBytes (s.cfg.chByteAddr c 0) bytes).read (s.cfg.chByteAddr c k)) := by
    exact Memory.read_writeBytes_inside hwf (addr := s.cfg.chByteAddr c 0) (by omega : k < bytes.length)
  refine ⟨_, hrun, hback, fun hbig r b0 b1 b2 b3 hr h0 h1 h2 h3 => ?big,
    fun hlittle r b0 b1 b2 b3 hr h0 h1 h2 h3 => ?little, fun a ha => ?outside, rfl⟩
  case big =>
    rw [chanReg_of_bytes hback hr h0 h1 h2 h3, hbig]
    rfl
  case little =>
    rw [chanReg_of_bytes hback hr h0 h1 h2 h3, hlittle]
    rfl
  case outside => exact Memory.read_writeBytes_outside hwf (by simp only [Config.chByteAddr]; omega)

end
end

section
/-!
The command rows of rule R96 by themselves: the byte and the request word of each (spec/30_encoding.md section 4), and
what it does (spec/42_selection.md rules R192 to R196).
-/

namespace Sys2Proof

/-! ### The numbers that the spec writes for a command -/

theorem cmdByte_eq_ofNat (code k : Nibble) : cmdByte code k = BitVec.ofNat 8 (code.toNat * 16 + k.toNat) := by
  rw [← toNat_cmdByte, BitVec.ofNat_toNat, BitVec.setWidth_eq]

/-- The CH.CMD word that carries a command byte. -/
theorem reqWord_cmdByte_eq_ofNat (code k : Nibble) :
    reqWord 0x34 (cmdByte code k) 0 = BitVec.ofNat 32 (0x34000000 + code.toNat * 2 ^ 20 + k.toNat * 2 ^ 16) := by
  have hword : 0x34000000 + code.toNat * 2 ^ 20 + k.toNat * 2 ^ 16 = (reqWord 0x34 (cmdByte code k) 0).toNat := by
    rw [toNat_reqWord, toNat_cmdByte, show (0x34 : Byte).toNat = 0x34 from rfl, show (0 : Half).toNat = 0 from rfl]
    omega
  rw [hword, BitVec.ofNat_toNat, BitVec.setWidth_eq]

end Sys2Proof

namespace Sys2Proof.Machine

theorem noCommand_eq (s : State) : s.respondCommand false false =
    { s with out := .answered (resp32 0 0 (chrdNat s.chBase s.chDelta s.reloadReq)) none } :=
  respondCommand_eq_resp32 s false false

/-- A byte outside the three channel commands. -/
theorem exec_chCmd_of_noCommand {m : Byte} (h : m.toNat / 16 ∉ [0xC, 0xB, 0x9]) (s : State) :
    exec (.chCmd m) s = .next (s.respondCommand false false) := by
  simp only [List.mem_cons, List.not_mem_nil, or_false, not_or] at h
  obtain ⟨hset, hadd, hclear⟩ := h
  change execChCmd m s = _
  unfold execChCmd
  rw [toNat_cmdCode]
  split
  next hcode => exact absurd hcode hset
  next hcode => exact absurd hcode hadd
  next hcode => exact absurd hcode hclear
  next => rfl

theorem nibble_add_eq_ofNat (x y : Nibble) : x + y = BitVec.ofNat 4 ((x.toNat + y.toNat) % 16) := by
  rw [show (x.toNat + y.toNat) % 16 = (x + y).toNat from (BitVec.toNat_add x y).symm, BitVec.ofNat_toNat,
    BitVec.setWidth_eq]

end Sys2Proof.Machine

/-! ### The obligations -/

section
open Sys2Proof Sys2Proof.Machine

/-- Settles O36: the byte, the word that carries it, and the answer from the state after the update. -/
theorem channelSetReplacesTheBase : Obligations.ChannelSetReplacesTheBase := by
  unfold Obligations.ChannelSetReplacesTheBase
  exact fun k s => ⟨congrArg Encoded.cmd8 (cmdByte_eq_ofNat 0xC k), reqWord_cmdByte_eq_ofNat 0xC k,
    congrArg Host.Outcome.next
      (respondCommand_eq_resp32 { s with chBase := k, chDelta := 0, reloadReq := true } true true)⟩

/-- Settles O37: as for CHANNEL_SET, with the sum of the nibbles as a number (`nibble_add_eq_ofNat`). -/
theorem channelAddMovesTheDelta : Obligations.ChannelAddMovesTheDelta := by
  unfold Obligations.ChannelAddMovesTheDelta
  refine fun k s => ⟨congrArg Encoded.cmd8 (cmdByte_eq_ofNat 0xB k), reqWord_cmdByte_eq_ofNat 0xB k, ?_⟩
  rw [← nibble_add_eq_ofNat]
  exact congrArg Host.Outcome.next
    (respondCommand_eq_resp32 { s with chDelta := s.chDelta + k, reloadReq := true } true true)

/-- Settles O38: the two outcomes of the unsigned compare. -/
theorem channelClearIfGreaterClearsTheDelta : Obligations.ChannelClearIfGreaterClearsTheDelta := by
  unfold Obligations.ChannelClearIfGreaterClearsTheDelta
  refine fun k s => ⟨congrArg Encoded.cmd8 (cmdByte_eq_ofNat 0x9 k), reqWord_cmdByte_eq_ofNat 0x9 k, ?_⟩
  change execChannelClearIfGt k s = _
  unfold execChannelClearIfGt
  by_cases hgt : k.toNat < s.chDelta.toNat
  · rw [if_pos (BitVec.lt_def.mpr hgt), if_pos hgt, respondCommand_eq_resp32]
    rfl
  · rw [if_neg (mt BitVec.lt_def.mp hgt), if_neg hgt, respondCommand_eq_resp32]
    rfl

/-- Settles O39: the six rows and every such byte share one answer (`noCommand_eq`). -/
theorem commandsWithoutEffect : Obligations.CommandsWithoutEffect := by
  unfold Obligations.CommandsWithoutEffect
  refine ⟨fun i s hi => ?rows, fun m s hm => ?bytes⟩
  case rows =>
    obtain ⟨code, k, rfl | rfl | rfl | rfl | rfl | rfl⟩ := hi
    all_goals exact congrArg Host.Outcome.next (noCommand_eq s)
  case bytes => rw [exec_chCmd_of_noCommand hm, noCommand_eq]

end
end

section
/-!
The refusal of the duration 0 (spec/93_implementation_defined.md U3), and runs of ticks: the element period
(spec/41_timing.md rule R152), the wait (rule R165) and the masked ticks (rules R150 and R212).
-/

namespace Sys2Proof.Machine

/-! ### The refusal -/

theorem exec_tmrLde_refused {s : State} {v : Half} (h : v = 0 ∧ s.cfg.zeroElemOk = false) :
    exec (.tmrLde v) s = .refused .zeroElement := if_pos h

theorem exec_tmrInit_refused {s : State} (hok : bankOk s) (h : s.elemDur = 0 ∧ s.cfg.zeroElemOk = false) :
    exec .tmrInit s = .refused .zeroElement := by
  have hmsg : ¬ s.msgOk = false := by rw [msgOk_eq, decide_eq_true hok]; decide
  simp only [exec, execTmrInit]
  rw [if_neg hmsg, if_pos h]

/-! ### A run of ticks -/

/-- `s` with the events to come and the output given: the two parts of the state that no tick reads. -/
def State.withPorts (es : List Event) (o : Output) (s : State) : State := { s with events := es, out := o }

theorem tickEvent_withPorts (es : List Event) (o : Output) (s : State) :
    (s.withPorts es o).tickEvent = s.tickEvent.withPorts es o := by
  cases hmask : s.tickMask with
  | false => rw [tickEvent_of_unmasked hmask, tickEvent_of_unmasked (s := s.withPorts es o) hmask]; rfl
  | true => rw [tickEvent_of_masked hmask, tickEvent_of_masked (s := s.withPorts es o) hmask]; rfl

theorem tickEvents_withPorts (n : Nat) (es : List Event) (o : Output) (s : State) :
    State.tickEvent^[n] (s.withPorts es o) = (State.tickEvent^[n] s).withPorts es o :=
  Function.Semiconj.iterate_right (f := State.withPorts es o) (fun s => (tickEvent_withPorts es o s).symm) n s |>.symm

theorem step_tick_withPorts {s : State} {es : List Event} (he : s.events = .tick :: es) :
    step s = .next (s.tickEvent.withPorts es .silent) := by
  have hports : State.tickEvent { s with events := es } = s.tickEvent.withPorts es s.out :=
    tickEvent_withPorts es s.out s
  rw [step_tick he, hports]
  rfl

/-- `n` tick steps are `n` tick events, but for the two ports. -/
theorem runSteps_ticks {s : State} {n : Nat} {es : List Event} (he : s.events = List.replicate n .tick ++ es) :
    ∃ o : Output, runSteps n s = .next ((State.tickEvent^[n] s).withPorts es o) := by
  induction n generalizing s with
  | zero => subst he; exact ⟨s.out, rfl⟩
  | succ n ih =>
    obtain ⟨o, ho⟩ := ih (s := s.tickEvent.withPorts (List.replicate n .tick ++ es) .silent) rfl
    refine ⟨o, (runSteps_succ n (step_tick_withPorts he)).trans (ho.trans ?_)⟩
    rw [tickEvents_withPorts]
    rfl

/-! ### Delivered ticks -/

theorem tickEvents_of_unmasked {s : State} (h : s.tickMask = false) (n : Nat) :
    State.tickEvent^[n] s = State.doTick^[n] s := by
  induction n generalizing s with
  | zero => rfl
  | succ n ih =>
    rw [Function.iterate_succ_apply, Function.iterate_succ_apply, tickEvent_of_unmasked h]
    exact ih h

theorem runSteps_deliveredTicks {s : State} {n : Nat} {es : List Event} (hmask : s.tickMask = false)
    (he : s.events = List.replicate n .tick ++ es) :
    ∃ o : Output, runSteps n s = .next ((State.doTick^[n] s).withPorts es o) := by
  rw [← tickEvents_of_unmasked hmask]
  exact runSteps_ticks he

theorem toNat_waitTimer_doTicks (s : State) (n : Nat) :
    (State.doTick^[n] s).waitTimer.toNat = s.waitTimer.toNat - n := by
  induction n with
  | zero => rfl
  | succ n ih => rw [Function.iterate_succ_apply', State.doTick_waitTimer, toNat_countDown, ih, Nat.sub_sub]

theorem tickMask_doTicks (s : State) (n : Nat) : (State.doTick^[n] s).tickMask = s.tickMask := by
  induction n with
  | zero => rfl
  | succ n ih => rw [Function.iterate_succ_apply', State.doTick_tickMask, ih]

/-- A tick sets a cleared flag exactly if the element timer expires on it. -/
theorem tickEvent_edgeFlag_iff {s : State} (hmask : s.tickMask = false) (hflag : s.edgeFlag = false) :
    s.tickEvent.edgeFlag = true ↔ s.elemTimer.toNat ≤ 1 := by
  rw [tickEvent_of_unmasked hmask, State.doTick_edgeFlag, hflag, ← countDown_eq_zero]
  split_ifs with hzero
  · exact iff_of_true rfl hzero
  · exact iff_of_false not_false hzero

/-- TMR.RDW after `n` delivered ticks. -/
theorem runSteps_ticks_tmrRdw {s : State} {n : Nat} (hmask : s.tickMask = false)
    (he : s.events = List.replicate n .tick ++ [.request 0x23000000]) :
    ∃ t : State, runSteps (n + 1) s = .next t ∧
      t.out = .answered (resp32 0 0 (s.waitTimer.toNat - n)) none := by
  obtain ⟨hdecode, -, -, hread, -⟩ := timersAreRead
  obtain ⟨o, hticks⟩ := runSteps_deliveredTicks hmask he
  have hrdw := (step_request (s := (State.doTick^[n] s).withPorts [.request 0x23000000] o) rfl hdecode).trans (hread _)
  refine ⟨_, (runSteps_add 1 hticks).trans (runSteps_succ 0 hrdw), ?_⟩
  rw [← toNat_waitTimer_doTicks]
  rfl

theorem elemReload_doTicks (s : State) (n : Nat) : (State.doTick^[n] s).elemReload = s.elemReload := by
  induction n with
  | zero => rfl
  | succ n ih => rw [Function.iterate_succ_apply', State.doTick_elemReload, ih]

theorem succ_mod_eq {p : Nat} (hp : 0 < p) (n : Nat) :
    (n + 1) % p = if n % p + 1 = p then 0 else n % p + 1 := by
  have hlt := Nat.mod_lt n hp
  rw [← Nat.mod_add_mod]
  split_ifs with hlast
  · rw [hlast, Nat.mod_self]
  · exact Nat.mod_eq_of_lt (by omega)

/-- What is left of a period `p` after `n` ticks is 1 exactly if the next tick is a `p`-th one. -/
theorem period_left_le_one_iff {p : Nat} (hp : 0 < p) (n : Nat) : p - n % p ≤ 1 ↔ p ∣ n + 1 := by
  have hlt := Nat.mod_lt n hp
  rw [Nat.dvd_iff_mod_eq_zero, succ_mod_eq hp]
  generalize n % p = r at hlt ⊢
  split_ifs
  · exact iff_of_true (by omega) rfl
  · exact iff_of_false (by omega) not_false

/-- The tick after `n` reloads the period or takes one off what is left of it. -/
theorem period_left_succ {p : Nat} (hp : 0 < p) (n : Nat) :
    p - (n + 1) % p = if p - n % p ≤ 1 then p else p - n % p - 1 := by
  have hlt := Nat.mod_lt n hp
  rw [succ_mod_eq hp]
  generalize n % p = r at hlt ⊢
  split_ifs <;> omega

/-- The state of the element timer after `n` delivered ticks from a fresh load (rule R152). -/
theorem elem_doTicks {s : State} (hreload : s.elemReload ≠ 0) (htimer : s.elemTimer = s.elemReload)
    (hflag : s.edgeFlag = false) (n : Nat) :
    (State.doTick^[n] s).elemTimer.toNat = s.elemReload.toNat - n % s.elemReload.toNat ∧
      (State.doTick^[n] s).edgeFlag = decide (s.elemReload.toNat ≤ n) := by
  have hp : 0 < s.elemReload.toNat := Nat.pos_of_ne_zero fun h => hreload (BitVec.eq_of_toNat_eq h)
  induction n with
  | zero => exact ⟨by rw [Nat.zero_mod, Nat.sub_zero, ← htimer]; rfl, by simpa [Nat.not_le_of_lt hp] using hflag⟩
  | succ n ih =>
    obtain ⟨ihTimer, ihFlag⟩ := ih
    rw [Function.iterate_succ_apply', State.doTick_elemTimer, State.doTick_edgeFlag, elemReload_doTicks, ihFlag]
    simp only [countDown_eq_zero, ihTimer]
    refine ⟨?_, ?_⟩
    · rw [apply_ite BitVec.toNat, toNat_countDown, ihTimer, period_left_succ hp]
    · split_ifs with hlast
      · have := Nat.le_of_dvd (Nat.succ_pos n) ((period_left_le_one_iff hp n).mp hlast)
        exact (decide_eq_true this).symm
      · refine decide_eq_decide.mpr ⟨fun h => Nat.le_succ_of_le h, fun h => ?_⟩
        by_contra hn
        have hlt : n < s.elemReload.toNat := Nat.lt_of_not_le hn
        rw [Nat.mod_eq_of_lt hlt] at hlast
        omega

/-! ### Masked ticks -/

theorem tickEvents_remembered {s : State} (hmask : s.tickMask = true) (hdepth : s.cfg.maskPendingDepth = 1) (n : Nat) :
    State.tickEvent^[n + 1] s = { s with tickPending := true } := by
  induction n with
  | zero => exact tickEvent_remembered hmask hdepth
  | succ n ih =>
    rw [Function.iterate_succ_apply', ih]
    exact tickEvent_remembered (s := { s with tickPending := true }) hmask hdepth

theorem tickEvents_lost {s : State} (hmask : s.tickMask = true) (hdepth : s.cfg.maskPendingDepth = 0) (n : Nat) :
    State.tickEvent^[n] s = s := by
  have hone : s.tickEvent = s := by
    rw [tickEvent_of_masked hmask, hdepth, show ((0 : Fin 2) == 1) = false from rfl, Bool.or_false]
  exact Function.iterate_fixed hone n

end Sys2Proof.Machine

/-! ### The obligations -/

section
open Sys2Proof Sys2Proof.Machine

/-- Settles O15: TMR.LDE by its one condition, TMR.INIT where the bank passes its test; a duration of 0 is not the
unprogrammed one. -/
theorem zeroDurationIsRefusedOnlyWhereSwitchedOff : Obligations.ZeroDurationIsRefusedOnlyWhereSwitchedOff := by
  unfold Obligations.ZeroDurationIsRefusedOnlyWhereSwitchedOff
  refine ⟨fun v s => ⟨fun h => ?lde, exec_tmrLde_refused⟩, fun s => ⟨fun h => ?init, ?initRefused⟩⟩
  case lde =>
    by_contra hn
    rw [exec_tmrLde_loaded ((not_zeroElement_iff s v).mp hn)] at h
    cases h
  case init =>
    have hok : bankOk s := by
      by_contra hbad
      rw [exec_tmrInit_invalid hbad] at h
      cases h
    by_contra hn
    have hload : ¬ (s.elemDur = 0 ∧ s.cfg.zeroElemOk = false) := fun ⟨hdur, hoff⟩ =>
      hn ⟨hok.1, (elemDur_eq_zero s).mp hdur, hoff⟩
    rw [exec_tmrInit_valid hok ((not_zeroElement_iff s s.elemDur).mp hload)] at h
    cases h
  case initRefused =>
    rintro ⟨hterm, hdur, hoff⟩
    exact exec_tmrInit_refused ⟨hterm, by rw [hdur]; decide⟩ ⟨(elemDur_eq_zero s).mpr hdur, hoff⟩

/-- Settles O21: the run is `n` delivered ticks (`runSteps_deliveredTicks`), which leave the timer and the flag as
`elem_doTicks` says; the further tick sets the flag where it is a period's last (`period_left_le_one_iff`). -/
theorem elementPeriodIsTheReloadValue : Obligations.ElementPeriodIsTheReloadValue := by
  unfold Obligations.ElementPeriodIsTheReloadValue
  intro s n hmask hreload htimer hflag he
  have hp : 0 < s.elemReload.toNat := Nat.pos_of_ne_zero fun h => hreload (BitVec.eq_of_toNat_eq h)
  obtain ⟨o, hrun⟩ := runSteps_deliveredTicks (es := []) hmask (he.trans (List.append_nil _).symm)
  obtain ⟨hleft, hedge⟩ := elem_doTicks hreload htimer hflag n
  refine ⟨_, hrun, hleft, hedge, _, step_tick_withPorts rfl, ?_⟩
  rw [← period_left_le_one_iff hp, ← hleft]
  exact tickEvent_edgeFlag_iff (s := { State.doTick^[n] s with edgeFlag := false, events := [.tick], out := o })
    ((tickMask_doTicks s n).trans hmask) rfl

/-- Settles O22: TMR.LDW loads the timer, and the rest of the run is `runSteps_ticks_tmrRdw`. -/
theorem waitExpiresAfterItsTicks : Obligations.WaitExpiresAfterItsTicks := by
  unfold Obligations.WaitExpiresAfterItsTicks
  intro s d n hmask he
  obtain ⟨hdecode, -, -, hload, -⟩ := waitAndMessageTimersAreLoaded
  have hldw := (step_request he (hdecode d)).trans (hload d _)
  rw [runSteps_succ (n + 1) hldw]
  exact runSteps_ticks_tmrRdw (s := { s with
    waitTimer := d
    events := List.replicate n .tick ++ [.request 0x23000000]
    out := .answered (resp32 0 0 d.toNat) none }) hmask rfl

/-- Settles O23: the masked ticks come to one pending tick, or to none at depth 0 (`tickEvents_remembered`,
`tickEvents_lost`), and the TICK.UNMASK after them delivers what is pending. -/
theorem maskedTicksBeyondTheFirstAreLost : Obligations.MaskedTicksBeyondTheFirstAreLost := by
  unfold Obligations.MaskedTicksBeyondTheFirstAreLost
  obtain ⟨hdecode, hnone, hpending⟩ := tickUnmaskDeliversThePendingTick
  refine ⟨fun s n es hmask hdepth he => ?remembered, fun s n es hmask hdepth he => ?lost,
    fun s n es hmask hdepth hclear he => ?unmaskedAfter⟩
  case remembered =>
    obtain ⟨o, hticks⟩ := runSteps_ticks he
    rw [tickEvents_remembered hmask hdepth] at hticks
    have hunmask := (step_request (s := { s with tickPending := true, events := .request 0x02000000 :: es, out := o })
      rfl hdecode).trans (hpending _ rfl)
    exact ⟨⟨o, hticks⟩, (runSteps_add 1 hticks).trans (runSteps_succ 0 hunmask)⟩
  case lost =>
    obtain ⟨o, hticks⟩ := runSteps_ticks he
    rw [tickEvents_lost hmask hdepth] at hticks
    exact ⟨o, hticks⟩
  case unmaskedAfter =>
    obtain ⟨o, hticks⟩ := runSteps_ticks he
    rw [tickEvents_lost hmask hdepth] at hticks
    have hunmask := (step_request (s := s.withPorts (.request 0x02000000 :: es) o) rfl hdecode).trans (hnone _ hclear)
    exact (runSteps_add 1 hticks).trans (runSteps_succ 0 hunmask)

end
end

section
/-!
The algebra of the CRC (spec/40_integrity.md rule R122): it is linear over xor, its step loses nothing of either
argument, and a sequence followed by its CRC has CRC 0; and the byte-at-a-time requests (rule R133).
-/

namespace Sys2Proof.Machine

/-! ### The round -/

/-- What a round adds to the shift: the polynomial where the bit shifted out is set. -/
def crcFeedback (t : Half) : Half := if t.msb then 0x1021 else 0

theorem crcRound_eq_xor (t : Half) : crcRound t = (t <<< 1) ^^^ crcFeedback t := by
  unfold crcRound crcFeedback
  split_ifs
  · rfl
  · exact (BitVec.xor_zero).symm

theorem crcFeedback_xor (x y : Half) : crcFeedback (x ^^^ y) = crcFeedback x ^^^ crcFeedback y := by
  unfold crcFeedback
  rw [BitVec.msb_xor]
  cases x.msb <;> cases y.msb <;> rfl

theorem crcRound_xor (x y : Half) : crcRound (x ^^^ y) = crcRound x ^^^ crcRound y := by
  simp only [crcRound_eq_xor, crcFeedback_xor, BitVec.shiftLeft_xor_distrib]
  ac_rfl

/-- Below the top bit a round is a doubling. -/
theorem toNat_crcRound_of_small {t : Half} (h : t.toNat < 2 ^ 15) : (crcRound t).toNat = t.toNat * 2 := by
  have hmsb : t.msb = false := BitVec.msb_eq_false_iff_two_mul_lt.mpr (by omega)
  rw [crcRound, hmsb, if_neg Bool.false_ne_true, BitVec.toNat_shiftLeft, Nat.shiftLeft_eq]
  omega

/-- The polynomial is odd and a shift is even, so a round gives 0 from 0 only. -/
theorem eq_zero_of_crcRound_eq_zero {t : Half} (h : crcRound t = 0) : t = 0 := by
  cases hmsb : t.msb with
  | true =>
    have hlow := congrArg (BitVec.getLsbD · 0) h
    simp [crcRound, hmsb] at hlow
  | false =>
    have hlt := BitVec.msb_eq_false_iff_two_mul_lt.mp hmsb
    have hdouble := toNat_crcRound_of_small (t := t) (by omega)
    apply BitVec.eq_of_toNat_eq
    rw [h] at hdouble
    simpa using hdouble.symm

theorem crcRound_injective : Function.Injective crcRound := by
  intro x y h
  have hzero : crcRound (x ^^^ y) = 0 := by rw [crcRound_xor, h, BitVec.xor_self]; rfl
  exact BitVec.xor_eq_zero_iff.mp (eq_zero_of_crcRound_eq_zero hzero)

/-! ### The step -/

/-- A byte in the high half of the register, where the step takes it in. -/
def highByte (b : Byte) : Half := b.setWidth 16 <<< 8

theorem crcStep_eq_repeat (c : Half) (b : Byte) : crcStep c b = Nat.repeat crcRound 8 (c ^^^ highByte b) := rfl

theorem highByte_xor (x y : Byte) : highByte (x ^^^ y) = highByte x ^^^ highByte y := by
  simp only [highByte, BitVec.setWidth_xor, BitVec.shiftLeft_xor_distrib]

theorem repeat_crcRound_xor (n : Nat) (x y : Half) :
    Nat.repeat crcRound n (x ^^^ y) = Nat.repeat crcRound n x ^^^ Nat.repeat crcRound n y := by
  induction n with
  | zero => rfl
  | succ n ih => simp only [Nat.repeat, ih, crcRound_xor]

theorem repeat_crcRound_injective (n : Nat) : Function.Injective (Nat.repeat crcRound n) := by
  induction n with
  | zero => exact Function.injective_id
  | succ n ih => exact crcRound_injective.comp ih

theorem crcStep_xor (c1 c2 : Half) (b1 b2 : Byte) :
    crcStep (c1 ^^^ c2) (b1 ^^^ b2) = crcStep c1 b1 ^^^ crcStep c2 b2 := by
  simp only [crcStep_eq_repeat, highByte_xor, ← repeat_crcRound_xor]
  congr 1
  ac_rfl

theorem toNat_highByte (b : Byte) : (highByte b).toNat = b.toNat * 256 := by
  rw [highByte, BitVec.toNat_shiftLeft, BitVec.toNat_setWidth, Nat.shiftLeft_eq]
  omega

theorem highByte_injective : Function.Injective highByte := by
  intro x y h
  have hnat := congrArg BitVec.toNat h
  rw [toNat_highByte, toNat_highByte] at hnat
  exact BitVec.eq_of_toNat_eq (by omega)

theorem crcStep_injective_left (b : Byte) : Function.Injective (crcStep · b) := fun _ _ h =>
  (BitVec.xor_left_inj _).mp (repeat_crcRound_injective 8 h)

theorem crcStep_injective_right (c : Half) : Function.Injective (crcStep c) := fun _ _ h =>
  highByte_injective ((BitVec.xor_right_inj c).mp (repeat_crcRound_injective 8 h))

/-! ### The sequence -/

theorem foldl_crcStep_xor (c1 c2 : Half) {x y : List Byte} (hlen : x.length = y.length) :
    (List.zipWith (fun p q => p ^^^ q) x y).foldl crcStep (c1 ^^^ c2) =
      x.foldl crcStep c1 ^^^ y.foldl crcStep c2 := by
  induction x generalizing y c1 c2 with
  | nil =>
    rw [List.eq_nil_of_length_eq_zero hlen.symm]
    rfl
  | cons a x ih =>
    cases y with
    | nil => cases hlen
    | cons b y =>
      simp only [List.zipWith_cons_cons, List.foldl_cons, crcStep_xor]
      exact ih _ _ (Nat.succ.inj hlen)

theorem foldl_crcStep_injective (bytes : List Byte) : Function.Injective (bytes.foldl crcStep) := by
  induction bytes with
  | nil => exact Function.injective_id
  | cons b bytes ih => exact ih.comp (crcStep_injective_left b)

theorem crcStep_zero : crcStep 0 0 = 0 := by decide

theorem foldl_crcStep_zeros (n : Nat) : (List.replicate n 0x00).foldl crcStep 0x0000 = 0 := by
  induction n with
  | zero => rfl
  | succ n ih => rwa [List.replicate_succ, List.foldl_cons, crcStep_zero]

/-! ### The residue -/

theorem toNat_repeat_crcRound_of_small {n : Nat} {t : Half} (h : t.toNat * 2 ^ n < 2 ^ 16) :
    (Nat.repeat crcRound n t).toNat = t.toNat * 2 ^ n := by
  induction n with
  | zero => exact (Nat.mul_one _).symm
  | succ n ih =>
    rw [Nat.pow_succ, ← Nat.mul_assoc] at h ⊢
    have hprev := ih (by omega)
    rw [Nat.repeat, toNat_crcRound_of_small (by omega), hprev]

/-- The eight rounds move a byte from the low half of the register to the high one. -/
theorem repeat_crcRound_lowByte (b : Byte) : Nat.repeat crcRound 8 (b.setWidth 16) = highByte b := by
  have hb := b.isLt
  have hlow : (b.setWidth 16).toNat = b.toNat := by rw [BitVec.toNat_setWidth]; omega
  apply BitVec.eq_of_toNat_eq
  rw [toNat_repeat_crcRound_of_small (by omega), toNat_highByte, hlow]
  rfl

theorem be16_eq_xor (b0 b1 : Byte) : be16 b0 b1 = highByte b0 ^^^ b1.setWidth 16 := by
  apply BitVec.eq_of_getLsbD_eq
  intro i hi
  rw [be16, highByte, BitVec.getLsbD_append, BitVec.getLsbD_xor, BitVec.getLsbD_shiftLeft, BitVec.getLsbD_setWidth,
    BitVec.getLsbD_setWidth]
  by_cases hlow : i < 8
  · simp [hlow, hi]
  · simp [hlow, hi, BitVec.getLsbD_of_ge b1 i (Nat.le_of_not_lt hlow), show i - 8 < 16 by omega]

/-- A register is its two bytes. -/
theorem be16_bytes (c : Half) : be16 (BitVec.ofNat 8 (c.toNat / 256)) (BitVec.ofNat 8 (c.toNat % 256)) = c := by
  have hc := c.isLt
  apply BitVec.eq_of_toNat_eq
  rw [toNat_be16, BitVec.toNat_ofNat, BitVec.toNat_ofNat]
  omega

/-- Both bytes of the register fed to it cancel it, the high one first. -/
theorem crcStep_own_bytes (b0 b1 : Byte) : crcStep (crcStep (be16 b0 b1) b0) b1 = 0 := by
  have hfirst : crcStep (be16 b0 b1) b0 = highByte b1 := by
    rw [crcStep_eq_repeat, be16_eq_xor, BitVec.xor_comm, ← BitVec.xor_assoc, BitVec.xor_self, BitVec.zero_xor,
      repeat_crcRound_lowByte]
  rw [hfirst, crcStep_eq_repeat, BitVec.xor_self]
  decide

theorem crc16_residue (x : List Byte) :
    crc16 (x ++ [BitVec.ofNat 8 ((crc16 x).toNat / 256), BitVec.ofNat 8 ((crc16 x).toNat % 256)]) = 0x0000 := by
  rw [crc16_append]
  have h := crcStep_own_bytes (BitVec.ofNat 8 ((crc16 x).toNat / 256)) (BitVec.ofNat 8 ((crc16 x).toNat % 256))
  rwa [be16_bytes] at h

/-! ### The byte-at-a-time requests -/

/-- The request CRC.BYTE of a byte, as rule R131 writes its word. -/
def byteRequest (b : Byte) : Event := .request (BitVec.ofNat 32 (0x11000000 + b.toNat * 2 ^ 16))

theorem runSteps_crcBytes {s : State} {bytes : List Byte} {es : List Event}
    (he : s.events = bytes.map byteRequest ++ es) :
    ∃ o : Output, runSteps bytes.length s =
      .next { s with crcAcc := bytes.foldl crcStep s.crcAcc, events := es, out := o } := by
  induction bytes generalizing s with
  | nil => subst he; exact ⟨s.out, rfl⟩
  | cons b bytes ih =>
    obtain ⟨hdecode, hexec⟩ := crcByteFoldsOneByte
    have hbyte := (step_request he (hdecode b)).trans (hexec b _)
    obtain ⟨o, ho⟩ := ih (s := { s with
      crcAcc := crcStep s.crcAcc b
      events := bytes.map byteRequest ++ es
      out := .answered (resp32 0 0 (crcStep s.crcAcc b).toNat) none }) rfl
    exact ⟨o, (runSteps_succ bytes.length hbyte).trans ho⟩

end Sys2Proof.Machine

/-! ### The obligations -/

section
open Sys2Proof Sys2Proof.Machine

/-- Settles O27: linearity of the step and of the fold from 0, the zeros that leave 0 in the register, and the two
bytes that cancel it (`crcStep_own_bytes`). -/
theorem crcIsLinearWithZeroResidue : Obligations.CrcIsLinearWithZeroResidue := by
  unfold Obligations.CrcIsLinearWithZeroResidue
  refine ⟨crcStep_xor, fun x y hlen => foldl_crcStep_xor 0x0000 0x0000 hlen, fun n x => ?zeros, crc16_residue⟩
  case zeros =>
    rw [crc16_append, crc16, foldl_crcStep_zeros]
    rfl

/-- Settles O28: the flipped byte leaves another register (`crcStep_injective_right`), and no byte after it makes the
two equal again (`foldl_crcStep_injective`). -/
theorem crcDetectsEverySingleBitError : Obligations.CrcDetectsEverySingleBitError := by
  unfold Obligations.CrcDetectsEverySingleBitError
  intro before after b i hi h
  rw [crc16_append, crc16_append, List.foldl_cons, List.foldl_cons] at h
  have hbyte : b ^^^ BitVec.ofNat 8 (2 ^ i) = b := crcStep_injective_right _ (foldl_crcStep_injective after h)
  have hmask : BitVec.ofNat 8 (2 ^ i) = 0 := (BitVec.xor_right_inj b).mp (hbyte.trans BitVec.xor_zero.symm)
  have hpow : 2 ^ i % 2 ^ 8 = 0 := (BitVec.toNat_ofNat (2 ^ i) 8).symm.trans (congrArg BitVec.toNat hmask)
  rw [Nat.mod_eq_of_lt (Nat.pow_lt_pow_right (by decide) hi)] at hpow
  exact absurd hpow (Nat.two_pow_pos i).ne'

/-- Settles O26: the requests leave the fold from 0 in the register (`runSteps_crcBytes`), which is what CRC.CHAN and
CRC.MSG compute over their regions. -/
theorem bytewiseCrcEqualsRegionCrc : Obligations.BytewiseCrcEqualsRegionCrc := by
  unfold Obligations.BytewiseCrcEqualsRegionCrc
  intro s bytes he
  obtain ⟨hdecodeClr, hdecodeRd, hclr, hrd⟩ := crcAccumulatorIsClearedAndRead
  obtain ⟨-, hchan⟩ := crcOfTheChannelRegion
  obtain ⟨-, -, hmsg⟩ := crcOfTheMessageRegion
  have hfirst := (step_request he hdecodeClr).trans (hclr _)
  obtain ⟨o, hbytes⟩ := runSteps_crcBytes (bytes := bytes) (es := [.request 0x12000000]) (s := { s with
    crcAcc := 0x0000
    events := bytes.map byteRequest ++ [.request 0x12000000]
    out := .answered 0x00000000 none }) rfl
  have hlast := (step_request (s := { s with
    crcAcc := crc16 bytes, events := [.request 0x12000000], out := o }) rfl hdecodeRd).trans (hrd _)
  refine ⟨_, (runSteps_succ (bytes.length + 1) hfirst).trans ((runSteps_add 1 hbytes).trans (runSteps_succ 0 hlast)),
    rfl, rfl, fun hregion => ⟨_, hchan s, ?_, ?_⟩, fun len hlen hregion => ⟨_, hmsg s len hlen, ?_, ?_⟩⟩
  all_goals rw [hregion]

end
end

section
/-!
The boot sequence (spec/70_reset_and_hazards.md rule R262), one lemma per request of it.
-/

namespace Sys2Proof.Machine

/-! ### The four requests -/

theorem step_chLatch {s : State} {es : List Event} (he : s.events = .request 0x33000000 :: es) :
    step s = .next { s with
      chBase := s.chPins
      reloadReq := true
      events := es
      out := .answered (resp32 0 0 (chrdNat s.chPins s.chDelta true)) none } := by
  obtain ⟨hdecode, -, hexec, -⟩ := channelIsLatchedAndRead
  exact (step_request he hdecode).trans (hexec _)

theorem step_tmrInit {s : State} {es : List Event} (he : s.events = .request 0x26000000 :: es) (hok : bankOk s)
    (hdur : durNat s ≠ 0 ∨ s.cfg.zeroElemOk = true) :
    step s = .next { s with
      msgValid := true
      elemReload := BitVec.ofNat 16 (durNat s)
      elemTimer := BitVec.ofNat 16 (durNat s)
      delayReload := BitVec.ofNat 16 (delayNat s)
      edgeFlag := false
      events := es
      out := .answered (resp32 0 3 (durNat s)) none } := by
  obtain ⟨hdecode, -, hexec⟩ := timingConfigurationIsLoadedFromTheBank
  exact (step_request he hdecode).trans (hexec { s with events := es } hok hdur)

theorem step_selAct {s : State} {es : List Event} (he : s.events = .request 0x31000000 :: es) :
    step s = .next { s with
      reloadReq := false
      events := es
      out := selReply s ((s.chBase.toNat + s.chDelta.toNat) % 16) } := by
  obtain ⟨hdecode, hexec⟩ := selectTheActiveChannel
  exact (step_request he hdecode).trans (hexec { s with events := es })

theorem step_tickUnmask_of_none {s : State} {es : List Event} (he : s.events = .request 0x02000000 :: es)
    (hnone : s.tickPending = false) :
    step s = .next { s with tickMask := false, events := es, out := .answered 0x00000000 none } := by
  obtain ⟨hdecode, hexec, -⟩ := tickUnmaskDeliversThePendingTick
  exact (step_request he hdecode).trans (hexec _ hnone)

theorem step_tickUnmask_of_pending {s : State} {es : List Event} (he : s.events = .request 0x02000000 :: es)
    (hpending : s.tickPending = true) :
    step s = .next { State.doTick { s with tickMask := false, tickPending := false, events := es } with
      out := .answered 0x00000001 none } := by
  obtain ⟨hdecode, -, hexec⟩ := tickUnmaskDeliversThePendingTick
  exact (step_request he hdecode).trans (hexec _ hpending)

/-! ### The block that they leave -/

/-- `s` latched, loaded from its bank and with its record taken: what CH.LATCH, TMR.INIT and SEL.ACT leave. -/
def State.configured (s : State) (es : List Event) : State :=
  { s with
    chBase := s.chPins
    msgValid := true
    elemReload := BitVec.ofNat 16 (durNat s)
    elemTimer := BitVec.ofNat 16 (durNat s)
    delayReload := BitVec.ofNat 16 (delayNat s)
    edgeFlag := false
    reloadReq := false
    events := es
    out := selReply s ((s.chPins.toNat + s.chDelta.toNat) % 16) }

theorem runSteps_boot {s : State} {es : List Event} (hok : bankOk s) (hdur : durNat s ≠ 0 ∨ s.cfg.zeroElemOk = true)
    (he : s.events = .request 0x33000000 :: .request 0x26000000 :: .request 0x31000000 :: es) :
    runSteps 3 s = .next (s.configured es) := by
  have hlatch := step_chLatch he
  have hinit := step_tmrInit (s := { s with
    chBase := s.chPins
    reloadReq := true
    events := .request 0x26000000 :: .request 0x31000000 :: es
    out := .answered (resp32 0 0 (chrdNat s.chPins s.chDelta true)) none }) rfl hok hdur
  rw [runSteps_succ 2 hlatch, runSteps_succ 1 hinit, runSteps_succ 0 (step_selAct rfl)]
  rfl

/-- The tick delivered to a block whose timer has just been loaded with the duration `d`. -/
theorem doTick_of_loaded {s : State} {d : Nat} (hd : d < 65536) (hreload : s.elemReload = BitVec.ofNat 16 d)
    (htimer : s.elemTimer = BitVec.ofNat 16 d) (hflag : s.edgeFlag = false) :
    s.doTick = { s with
      waitTimer := BitVec.ofNat 16 (s.waitTimer.toNat - 1)
      messageTimer := BitVec.ofNat 16 (s.messageTimer.toNat - 1)
      elemTimer := BitVec.ofNat 16 (if d ≤ 1 then d else d - 1)
      edgeFlag := decide (d ≤ 1) } := by
  have hnat : s.elemTimer.toNat = d := by rw [htimer, BitVec.toNat_ofNat, Nat.mod_eq_of_lt hd]
  rw [deliveredTickCountsDown s, hnat, hflag, hreload, Bool.false_or, apply_ite (BitVec.ofNat 16)]

end Sys2Proof.Machine

/-! ### The obligation -/

section
open Sys2Proof Sys2Proof.Machine

/-- Settles O55: the first three requests leave `State.configured` (`runSteps_boot`), and TICK.UNMASK delivers the tick
that was pending to it, if one was. -/
theorem bootSequenceConfiguresTheBlock : Obligations.BootSequenceConfiguresTheBlock := by
  unfold Obligations.BootSequenceConfiguresTheBlock
  intro s es hok hdur he
  have hboot := runSteps_boot hok hdur he
  refine ⟨⟨_, hboot, rfl⟩, fun hnone => ?none, fun hpending => ?pending⟩
  case none =>
    exact (runSteps_add 1 hboot).trans (runSteps_succ 0 (step_tickUnmask_of_none rfl hnone))
  case pending =>
    have hunmask := step_tickUnmask_of_pending (s := s.configured (.request 0x02000000 :: es)) rfl hpending
    rw [doTick_of_loaded (durNat_lt s) rfl rfl rfl] at hunmask
    exact (runSteps_add 1 hboot).trans (runSteps_succ 0 hunmask)

end
end
